-- ==== Sys2Proof/Word.lean ====
section
/-! DEFINITION. The words KFC is built from: bytes, the 16-bit header fields, 32-bit registers and data, 17-bit
lengths and cursors, and 18-bit host addresses (spec/00_scope.md R5, R7; spec/10_state.md R26, R29). -/
namespace Sys2Proof

/-- One byte of a stream or of a buffer. -/
abbrev Byte := BitVec 8

/-- A 16-bit header field or immediate. -/
abbrev Half := BitVec 16

/-- A register, a command word, or the data of a host access (`REG_BITS`, `HOST_DATA_BITS`: 32, R5). -/
abbrev Word := BitVec 32

/-- A length, cursor or count register of 17 used bits (R29). -/
abbrev Len := BitVec 17

/-- A host byte address (`HOST_ADDR_BITS`: 18, R5). -/
abbrev Addr := BitVec 18

end Sys2Proof
end

