-- ==== Sys2Proof/Syntax.lean ====
section
/-! DEFINITION. The instructions of KFC: one constructor per row of the opcode map (spec/30_encoding.md R113). -/
namespace Sys2Proof

/-- A KFC command. An operand is the word's IMM field [15:0] (R110, R112): the unsigned offset of format O, the
immediate of format I, and for format I8 an immediate whose upper byte must be 0 (`Instr.wellFormed`). -/
inductive Instr where
  /-- DECODE: receive one request frame (R150). -/
  | decode
  /-- ENCODE: send one response frame (R160). -/
  | encode
  /-- RXSEEK off: set the read cursor (R211). -/
  | rxseek (off : Half)
  /-- TXSEEK off: set the write cursor (R181). -/
  | txseek (off : Half)
  /-- PUT8: append the low byte of VALUE (R183). -/
  | put8
  /-- PUT8I imm8: append an immediate byte (R183). -/
  | put8i (imm : Half)
  /-- PUT16: append the low 16 bits of VALUE, big-endian (R184). -/
  | put16
  /-- PUT16I imm: append an immediate of 16 bits, big-endian (R184). -/
  | put16i (imm : Half)
  /-- PUT32: append VALUE, big-endian (R185). -/
  | put32
  /-- PUT32I imm: append a zero-extended immediate as 32 bits, big-endian (R185). -/
  | put32i (imm : Half)
  /-- PUTUV: append VALUE as an unsigned varint (R186). -/
  | putuv
  /-- PUTUVI imm: append an immediate as an unsigned varint (R186). -/
  | putuvi (imm : Half)
  /-- PUTCA: append the compact-array length of VALUE elements (R187). -/
  | putca
  /-- PUTCAI imm: append the compact-array length of imm elements (R187). -/
  | putcai (imm : Half)
  /-- PUTCAN: append the length of an absent array (R187). -/
  | putcan
  /-- GET8: read one byte, zero-extended (R213). -/
  | get8
  /-- GET16: read an int16, big-endian, sign-extended (R214). -/
  | get16
  /-- GET32: read an int32, big-endian (R215). -/
  | get32
  /-- GETUV: read an unsigned varint (R216). -/
  | getuv
  /-- GETCA: read a compact-array length (R217). -/
  | getca
  deriving DecidableEq, Repr

end Sys2Proof
end

