-- ==== Sys2Proof/WellFormed.lean ====
section
/-! DEFINITION. Which instruction terms stand for a command word. The IMM operand has the field's own 16 bits, so the
one check left is format I8's: IMM[15:8] must be 0 (spec/30_encoding.md R111, R112). -/
namespace Sys2Proof

/-- The upper byte of an immediate is clear, as format I8 asks (R112). -/
def fitsImm8 (imm : Half) : Bool := imm.extractLsb' 8 8 == 0#8

/-- An instruction that some command word encodes (R111, R112). -/
def Instr.wellFormed : Instr → Bool
  | .put8i imm => fitsImm8 imm
  | .decode => true
  | .encode => true
  | .rxseek _ => true
  | .txseek _ => true
  | .put8 => true
  | .put16 => true
  | .put16i _ => true
  | .put32 => true
  | .put32i _ => true
  | .putuv => true
  | .putuvi _ => true
  | .putca => true
  | .putcai _ => true
  | .putcan => true
  | .get8 => true
  | .get16 => true
  | .get32 => true
  | .getuv => true
  | .getca => true

end Sys2Proof
end

