-- ==== Sys2Proof/Decode.lean ====
section
/-! DEFINITION. The command word (spec/30_encoding.md R110 to R116): the opcode map as a table of patterns and masks,
a decoder that is total on all words and names what it rejects, and the encoder built from the word's fields. -/
namespace Sys2Proof

/-- Why a word is no command (R114). -/
inductive Illegal where
  /-- The opcode is reserved: no row of R113 has it. -/
  | reservedOpcode (opc : Byte)
  /-- The opcode is defined, but S, N, RSV or IMM differ from each of its rows. -/
  | wrongFields (opc : Byte)
  deriving DecidableEq, Repr

/-- The command formats (R111). -/
inductive Format where
  /-- No operand. -/
  | z
  /-- A 16-bit offset. -/
  | o
  /-- A 16-bit immediate, S = 1. -/
  | i
  /-- An 8-bit immediate, S = 1. -/
  | i8
  /-- No operand, N = 1. -/
  | zn
  deriving DecidableEq, Repr

/-- One row of the opcode map (R113): a word `w` selects the row when `w & mask = pattern`. `build` takes the IMM
field. -/
structure Row where
  mnemonic : String
  format : Format
  pattern : Word
  mask : Word
  build : Half → Instr

/-- The opcode map, in the table's order (R113). -/
def opcodeMap : List Row :=
  [ ⟨"DECODE",   .z, 0x01000000, 0xFFFFFFFF, fun _ => .decode⟩,
    ⟨"ENCODE",   .z, 0x02000000, 0xFFFFFFFF, fun _ => .encode⟩,
    ⟨"RXSEEK",   .o, 0x08000000, 0xFFFF0000, .rxseek⟩,
    ⟨"TXSEEK",   .o, 0x09000000, 0xFFFF0000, .txseek⟩,
    ⟨"PUT8",     .z, 0x10000000, 0xFFFFFFFF, fun _ => .put8⟩,
    ⟨"PUT8I",    .i8, 0x10800000, 0xFFFFFF00, .put8i⟩,
    ⟨"PUT16",    .z, 0x11000000, 0xFFFFFFFF, fun _ => .put16⟩,
    ⟨"PUT16I",   .i, 0x11800000, 0xFFFF0000, .put16i⟩,
    ⟨"PUT32",    .z, 0x12000000, 0xFFFFFFFF, fun _ => .put32⟩,
    ⟨"PUT32I",   .i, 0x12800000, 0xFFFF0000, .put32i⟩ ] ++
  [ ⟨"PUTUV",    .z, 0x13000000, 0xFFFFFFFF, fun _ => .putuv⟩,
    ⟨"PUTUVI",   .i, 0x13800000, 0xFFFF0000, .putuvi⟩,
    ⟨"PUTCA",    .z, 0x14000000, 0xFFFFFFFF, fun _ => .putca⟩,
    ⟨"PUTCAI",   .i, 0x14800000, 0xFFFF0000, .putcai⟩,
    ⟨"PUTCAN",   .zn, 0x14400000, 0xFFFFFFFF, fun _ => .putcan⟩,
    ⟨"GET8",     .z, 0x20000000, 0xFFFFFFFF, fun _ => .get8⟩,
    ⟨"GET16",    .z, 0x21000000, 0xFFFFFFFF, fun _ => .get16⟩,
    ⟨"GET32",    .z, 0x22000000, 0xFFFFFFFF, fun _ => .get32⟩,
    ⟨"GETUV",    .z, 0x23000000, 0xFFFFFFFF, fun _ => .getuv⟩,
    ⟨"GETCA",    .z, 0x24000000, 0xFFFFFFFF, fun _ => .getca⟩ ]

/-- `w & mask = match`, the selection test of R113. -/
def Row.selects (r : Row) (w : Word) : Bool := (w &&& r.mask) == r.pattern

/-- The OPC field, bits [31:24] (R110). -/
def opcOf (w : Word) : Byte := w.extractLsb' 24 8

/-- The IMM field, bits [15:0] (R110). -/
def immOf (w : Word) : Half := w.extractLsb' 0 16

/-- The decoder of R115: the one row that `w` selects, or the reason why it is illegal (R114). -/
def decode (w : Word) : Except Illegal Instr :=
  match opcodeMap.find? (fun r => r.selects w) with
  | some r => .ok (r.build (immOf w))
  | none =>
    .error (if opcodeMap.any (fun r => opcOf r.pattern == opcOf w) then .wrongFields (opcOf w)
      else .reservedOpcode (opcOf w))

/-- A command word from its fields: OPC ++ S ++ N ++ RSV ++ IMM with RSV = 0 (R110). -/
def commandWord (opc : Byte) (srcImm null : Bool) (imm : Half) : Word :=
  opc ++ BitVec.ofBool srcImm ++ BitVec.ofBool null ++ 0#6 ++ imm

/-- The OPC column of R113. -/
def Instr.opc : Instr → Byte
  | .decode => 0x01
  | .encode => 0x02
  | .rxseek _ => 0x08
  | .txseek _ => 0x09
  | .put8 => 0x10
  | .put8i _ => 0x10
  | .put16 => 0x11
  | .put16i _ => 0x11
  | .put32 => 0x12
  | .put32i _ => 0x12
  | .putuv => 0x13
  | .putuvi _ => 0x13
  | .putca => 0x14
  | .putcai _ => 0x14
  | .putcan => 0x14
  | .get8 => 0x20
  | .get16 => 0x21
  | .get32 => 0x22
  | .getuv => 0x23
  | .getca => 0x24

/-- Format Z: every field but OPC is 0 (R111). -/
def formatZ (opc : Byte) : Word := commandWord opc false false 0

/-- Format O: the offset in IMM (R111). -/
def formatO (opc : Byte) (off : Half) : Word := commandWord opc false false off

/-- Formats I and I8: S = 1, the immediate in IMM (R111). -/
def formatI (opc : Byte) (imm : Half) : Word := commandWord opc true false imm

/-- Format ZN: N = 1 (R111). -/
def formatZN (opc : Byte) : Word := commandWord opc false true 0

/-- The command word of an instruction, from its row's OPC and format (R111, R113). -/
def encode (i : Instr) : Word :=
  match i with
  | .decode => formatZ i.opc
  | .encode => formatZ i.opc
  | .rxseek off => formatO i.opc off
  | .txseek off => formatO i.opc off
  | .put8 => formatZ i.opc
  | .put8i imm => formatI i.opc imm
  | .put16 => formatZ i.opc
  | .put16i imm => formatI i.opc imm
  | .put32 => formatZ i.opc
  | .put32i imm => formatI i.opc imm
  | .putuv => formatZ i.opc
  | .putuvi imm => formatI i.opc imm
  | .putca => formatZ i.opc
  | .putcai imm => formatI i.opc imm
  | .putcan => formatZN i.opc
  | .get8 => formatZ i.opc
  | .get16 => formatZ i.opc
  | .get32 => formatZ i.opc
  | .getuv => formatZ i.opc
  | .getca => formatZ i.opc

/-- The command word whose bits are `w`: every command is exactly one 32-bit word (R116), and bits above `nbits` are 0. -/
def tableWord (nbits w : Nat) : Word := BitVec.ofNat 32 (w % 2 ^ nbits)

/-- The instruction the decoder reads from a word numbered as the opcode table numbers it. -/
def decodeTableWord (nbits w : Nat) : Option Instr :=
  if nbits ≤ 32 then
    match decode (tableWord nbits w) with
    | .ok i => some i
    | .error _ => none
  else none

end Sys2Proof
end

