-- ==== Sys2Proof/Machine/Ports.lean ====
section
/-! DEFINITION. What crosses KFC's ports, and the atomic steps of its five agents (spec/10_state.md R20 to R22,
spec/20_memory.md R76, R77, R87). -/
namespace Sys2Proof.Machine

/-- One event of the request byte stream (R21). -/
inductive RxEvent where
  | byte (b : Byte)
  /-- The peer closed the stream. -/
  | eos
  /-- A read error. -/
  | err
  deriving DecidableEq, Repr

/-- Whether an event ends RXSRC's sequence (R21). -/
def RxEvent.isEnd : RxEvent → Bool
  | .byte _ => false
  | .eos => true
  | .err => true

/-- TXSINK's answer to an offered byte (R22). -/
inductive TxAnswer where
  | ok
  | err
  deriving DecidableEq, Repr

/-- The width of a host access: 1, 2 or 4 bytes (R76). -/
inductive Width where
  | one
  | two
  | four
  deriving DecidableEq, Repr

/-- The number of bytes of an access. -/
def Width.bytes : Width → Nat
  | .one => 1
  | .two => 2
  | .four => 4

/-- A host access: `MemRead(addr, n)` (R76) or `MemWrite(addr, n, v)` (R77). -/
inductive HostAccess where
  | read (addr : Addr) (n : Width)
  | write (addr : Addr) (n : Width) (data : Word)
  deriving DecidableEq, Repr

/-- The answer to a host access (R76, R77). -/
inductive HostResp where
  | okRead (data : Word)
  | okWrite
  | busErr
  deriving DecidableEq, Repr

/-- The data an answer carries: a `BUSERR` carries 0 (R76). -/
def HostResp.data : HostResp → Word
  | .okRead data => data
  | .okWrite => 0
  | .busErr => 0

/-- One atomic step of one agent (R6, R87). -/
inductive Turn where
  /-- HOST makes an access. -/
  | host (a : HostAccess)
  /-- ENGINE takes its step, if one is enabled. -/
  | engine
  /-- RXSRC's next event becomes available. -/
  | rxsrc (e : RxEvent)
  /-- TXSINK becomes ready to give an answer. -/
  | txsink (a : TxAnswer)
  /-- The platform attaches the streams of a new connection (spec/70_reset_and_hazards.md R272). -/
  | attach
  /-- RST is asserted (spec/70_reset_and_hazards.md R270). -/
  | reset
  deriving DecidableEq, Repr, Inhabited

end Sys2Proof.Machine
end

