-- ==== Sys2Proof/Config.lean ====
section
/-! DEFINITION. What an implementation fixes (the buffer sizes, spec/00_scope.md R5) and the free values: what the spec
leaves to a draw, as constants without a body (spec/93_implementation_defined.md section 1). -/
namespace Sys2Proof

/-- A buffer size as its log2, in 4 .. 16 (R5). -/
structure BufLog2 where
  val : Nat
  inRange : 4 ≤ val ∧ val ≤ 16
  deriving DecidableEq, Repr

/-- The parameters `RXLOG2` and `TXLOG2` (R5), which PARAM reads back (spec/10_state.md R32). -/
structure Param where
  rxLog2 : BufLog2
  txLog2 : BufLog2
  deriving DecidableEq, Repr

/-- The default of R5: both buffers hold 4096 bytes. -/
def Param.default : Param := ⟨⟨12, by decide⟩, ⟨12, by decide⟩⟩

/-- FREE VALUE (log 1): what the buffer byte at a host address holds if nothing has written it since power-up: any
value, fixed once drawn (spec/10_state.md R57). -/
opaque Config.powerUpByte : Nat → Byte

/-- FREE VALUE (log 3): the turn that comes when none is placed: any agent, any input, at any step
(spec/20_memory.md R87). -/
opaque Config.freeTurn : Nat → Machine.Turn

end Sys2Proof
end

