-- ==== Sys2Proof/Machine/State.lean ====
section
/-! DEFINITION. The state of KFC (spec/10_state.md R23 to R59) and of its environment as plain data, the reasons a step
can stop, and the state after reset. -/
namespace Sys2Proof.Machine

/-- Why the machine stops. The spec gives KFC no fault of its own: an error is a code in STATUS (R252) and a bus error is
an answer to the host (R243). Both reasons stand for an index outside a buffer, which R74 says no rule makes. -/
inductive Fault where
  /-- A GET, or a body byte of a DECODE, would use RXBUF at or beyond `RXBUF_BYTES`. Raised by `withBody` and
  `decodeByte`, only in a state that breaks R58. DESIGN CHOICE, safe: the machine stops where the spec has no rule (log 7). -/
  | rxIndex
  /-- A body byte of an ENCODE would be read from TXBUF at or beyond `TXBUF_BYTES`. Raised by `encodeStep`, only in a
  state that breaks R58. Safe: the machine stops where the spec has no rule (log 7). -/
  | txIndex
  deriving DecidableEq, Repr

/-- Why an instruction has no meaning. -/
inductive Refusal where
  /-- An instruction without a meaning, rejected by name in `exec`; no arm of `exec` does so now. Safe. -/
  | notModelled (mnemonic : String)
  deriving DecidableEq, Repr

/-- The error of STATUS.ERRCODE (spec/60_exceptions.md R240). -/
inductive ErrCode where
  | noError
  | truncatedFrame
  | malformedHeader
  | frameTooLarge
  | endOfStream
  | rxReadFail
  | rxClosedErr
  | txWriteFail
  | txClosedErr
  | illegalCmd
  | endOfData
  | bufFull
  | varintOverflow
  deriving DecidableEq, Repr

/-- EOP: the running multi-step command (R56). -/
inductive Eop where
  | idle
  | dec
  | enc
  deriving DecidableEq, Repr

/-- The stored fields of STATUS (R34). BUSY is `eop ≠ IDLE` (R35) and IRQ a function of the rest (R42): neither is
stored. -/
structure Status where
  done : Bool
  err : Bool
  wrej : Bool
  errCode : ErrCode
  rxClosed : Bool
  txClosed : Bool
  vnull : Bool
  lastOpc : Byte
  deriving DecidableEq, Repr

/-- The request registers (R46 to R52), at their used widths. The 16-bit header fields read sign-extended (R47, R48):
DEDUCED (log 12). -/
structure RxRegs where
  size : Word
  apiKey : Half
  apiVersion : Half
  corrId : Word
  bodyLen : Len
  pos : Len
  count : Len
  deriving DecidableEq, Repr

/-- The response registers (R53 to R55). -/
structure TxRegs where
  corrId : Word
  len : Len
  count : Len
  deriving DecidableEq, Repr

/-- The engine state (R56). -/
structure Engine where
  eop : Eop
  acc : Word
  elen : Len
  ecid : Word
  emsz : Word
  deriving DecidableEq, Repr

/-- The environment (R21, R22, R87): no state of the block (R23), but what its agents have put on the ports and which of
them moves next. The model's own fields (log 3 to log 6). -/
structure Env where
  /-- Turns already placed, the first to be taken first. -/
  agenda : List Turn
  /-- How many free turns have been drawn. -/
  draws : Nat
  /-- Events RXSRC has and the ENGINE has not consumed; the first is the one offered. -/
  rxPending : List RxEvent
  /-- RXSRC's sequence has had its `Eos` or `Err`. -/
  rxEnded : Bool
  /-- The answer TXSINK is ready to give. -/
  txReady : Option TxAnswer
  /-- The bytes TXSINK has accepted, in order. -/
  txSent : List Byte
  /-- The answer to the last host access. -/
  hostResp : Option HostResp
  deriving DecidableEq, Repr

/-- The contents of RXBUF and TXBUF: the bytes written since power-up, by host address (spec/20_memory.md R72, R73),
addresses strictly rising. An unlisted address holds nothing written. -/
abbrev Memory := List Host.Cell

/-- The state of KFC and of its environment. -/
structure State where
  /-- PARAM, hard-wired (R32). -/
  param : Param
  /-- CTRL.IE (R33). -/
  ie : Bool
  status : Status
  /-- VALUE (R45). -/
  value : Word
  rx : RxRegs
  tx : TxRegs
  eng : Engine
  /-- RXBUF and TXBUF (R57). -/
  mem : Memory
  env : Env
  deriving DecidableEq, Repr

/-- What a step answers. -/
abbrev Out := Host.Outcome State Fault Refusal

/-- STATUS after reset (R34, R59). -/
def Status.reset : Status := ⟨false, false, false, .noError, false, false, false, 0⟩

/-- The request registers after reset (R59). -/
def RxRegs.reset : RxRegs := ⟨0, 0, 0, 0, 0, 0, 0⟩

/-- The response registers after reset (R59). -/
def TxRegs.reset : TxRegs := ⟨0, 0, 0⟩

/-- The engine after reset (R56, R59). -/
def Engine.reset : Engine := ⟨.idle, 0, 0, 0, 0⟩

/-- An environment in which nothing has happened yet: DESIGN CHOICE (log 3 to log 6). -/
def Env.reset : Env := ⟨[], 0, [], false, none, [], none⟩

/-- The state after power-up (R59, R273): every register at its reset value, nothing written in the buffers; the
parameters are R5's defaults: DESIGN CHOICE (log 2). -/
def State.reset : State :=
  { param := .default, ie := false, status := .reset, value := 0, rx := .reset, tx := .reset, eng := .reset,
    mem := [], env := .reset }

end Sys2Proof.Machine
end

