-- ==== Sys2Proof/Machine/Flags.lean ====
section
/-! DEFINITION. STATUS, CTRL and the interrupt: the fields computed from state, the words the host reads, and how issue and
success write the flags (spec/10_state.md R33 to R43; spec/40_issue.md R132, R134; spec/60_exceptions.md R240, R250). -/
namespace Sys2Proof.Machine

/-- The number of an error in STATUS.ERRCODE (R240). -/
def ErrCode.code : ErrCode → BitVec 4
  | .noError => 0
  | .truncatedFrame => 1
  | .malformedHeader => 2
  | .frameTooLarge => 3
  | .endOfStream => 4
  | .rxReadFail => 5
  | .rxClosedErr => 6
  | .txWriteFail => 7
  | .txClosedErr => 8
  | .illegalCmd => 9
  | .endOfData => 10
  | .bufFull => 11
  | .varintOverflow => 12

/-- STATUS.BUSY: a DECODE or ENCODE is running (R35). -/
def State.busy (s : State) : Bool := s.eng.eop != .idle

/-- The IRQ output and STATUS.IRQ (R42, R250). -/
def State.irq (s : State) : Bool := s.ie && (s.status.done || s.status.err)

/-- The word a host read of STATUS returns (R34). -/
def State.statusWord (s : State) : Word :=
  0#8 ++ s.status.lastOpc ++ 0#4 ++ BitVec.ofBool s.irq ++ BitVec.ofBool s.status.vnull ++
    BitVec.ofBool s.status.txClosed ++ BitVec.ofBool s.status.rxClosed ++ s.status.errCode.code ++
    BitVec.ofBool s.status.wrej ++ BitVec.ofBool s.status.err ++ BitVec.ofBool s.status.done ++ BitVec.ofBool s.busy

/-- The word a host read of CTRL returns: IE in bit 2, all else 0 (R33). -/
def State.ctrlWord (s : State) : Word := 0#29 ++ BitVec.ofBool s.ie ++ 0#2

/-- The word a host read of PARAM returns (R32). -/
def State.paramWord (s : State) : Word :=
  0#19 ++ BitVec.ofNat 5 s.param.txLog2.val ++ 0#3 ++ BitVec.ofNat 5 s.param.rxLog2.val

/-- The common issue effects, for the OPC field of the word issued (R132). -/
def State.beginIssue (opc : Byte) (s : State) : State :=
  { s with status := { s.status with done := false, err := false, errCode := .noError, lastOpc := opc } }

/-- Successful completion, `complete_ok` (R134). -/
def State.completeOk (s : State) : State :=
  { s with eng := { s.eng with eop := .idle }, status := { s.status with done := true } }

/-- `reject_write`: a host write refused while BUSY only sets WREJ (spec/20_memory.md R80). -/
def State.rejectWrite (s : State) : State :=
  { s with status := { s.status with wrej := true } }

end Sys2Proof.Machine
end

