-- ==== Sys2Proof/Machine/Ops.lean ====
section
/-! DEFINITION. The operations every rule is written in: bytes of the buffers, the append and read primitives, ending in an
error and clearing it, and reset (spec/20_memory.md R72 to R74; spec/42_txbuild.md R180; spec/43_rxread.md R210;
spec/40_issue.md R135; spec/60_exceptions.md R256; spec/70_reset_and_hazards.md R270). -/
namespace Sys2Proof

/-- `RXBUF_BYTES` (R5). -/
def Param.rxBytes (p : Param) : Nat := 2 ^ p.rxLog2.val

/-- `TXBUF_BYTES` (R5). -/
def Param.txBytes (p : Param) : Nat := 2 ^ p.txLog2.val

end Sys2Proof

namespace Sys2Proof.Machine

/-! ### Memory -/

/-- The byte written at an address, if any has been since power-up. -/
def Memory.read? : Memory → Nat → Option Byte
  | [], _ => none
  | (a, b) :: m, x => if x = a then some b else Memory.read? m x

/-- Writes one byte, keeping the addresses strictly rising. -/
def Memory.write : Memory → Nat → Byte → Memory
  | [], x, v => [(x, v)]
  | (a, b) :: m, x, v =>
    if x < a then (x, v) :: (a, b) :: m
    else if x = a then (x, v) :: m
    else (a, b) :: Memory.write m x v

/-- Writes a list of bytes at rising addresses. -/
def Memory.writeAll : Memory → Nat → List Byte → Memory
  | m, _, [] => m
  | m, x, b :: bs => Memory.writeAll (Memory.write m x b) (x + 1) bs

/-- The canonical form: addresses strictly rising. An unlisted address holds nothing written, which no entry equals. -/
abbrev Memory.wf (m : Memory) : Prop := m.Pairwise fun c d => c.1 < d.1

/-- The byte at a host address of a buffer: as written, or the free power-up value (R57). -/
def State.byteAt (s : State) (a : Nat) : Byte := (Memory.read? s.mem a).getD (Config.powerUpByte a)

/-- Host address of RXBUF[0] (R72). -/
def rxBase : Nat := 0x10000

/-- Host address of TXBUF[0] (R72). -/
def txBase : Nat := 0x20000

/-- `RXBUF[i]` (R74). -/
def State.rxByte (s : State) (i : Nat) : Byte := s.byteAt (rxBase + i)

/-- `TXBUF[i]` (R74). -/
def State.txByte (s : State) (i : Nat) : Byte := s.byteAt (txBase + i)

/-- `RXBUF[i] <- b` (R74). -/
def State.setRxByte (i : Nat) (b : Byte) (s : State) : State :=
  { s with mem := Memory.write s.mem (rxBase + i) b }

/-- `TXBUF[i + j] <- L[j]` for each index of `L` (R74). -/
def State.setTxBytes (i : Nat) (L : List Byte) (s : State) : State :=
  { s with mem := Memory.writeAll s.mem (txBase + i) L }

/-- The `n` bytes `RXBUF[i ..]`. -/
def State.rxBytesAt (s : State) (i n : Nat) : List Byte := (List.range n).map fun j => s.rxByte (i + j)

/-- The `n` bytes `TXBUF[i ..]`. -/
def State.txBytesAt (s : State) (i n : Nat) : List Byte := (List.range n).map fun j => s.txByte (i + j)

/-! ### Ending in an error, and clearing it -/

/-- Error completion, `raise E` (R135): what takes the place of exception entry. Nothing is saved and control goes nowhere
(R252, R253). -/
def State.raise (e : ErrCode) (s : State) : State :=
  { s with eng := { s.eng with eop := .idle }, status := { s.status with err := true, errCode := e } }

/-- `fail E` of a DECODE step: the RX channel closes, then `raise E` (R150, R156). -/
def State.failRx (e : ErrCode) (s : State) : State :=
  State.raise e { s with status := { s.status with rxClosed := true } }

/-- The end of an ENCODE whose byte TXSINK answered `Err` (R160, R163). -/
def State.failTx (s : State) : State :=
  State.raise .txWriteFail { s with status := { s.status with txClosed := true } }

/-- CTRL.CLR: clears the result and WREJ (R256). -/
def State.clearResult (s : State) : State :=
  { s with status := { s.status with done := false, err := false, errCode := .noError, wrej := false } }

/-- The RESET step, and CTRL.SRST: every register and engine item at its reset value; the configuration, the buffers and
the environment stay (R59, R270, R271, R272). -/
def State.resetBlock (s : State) : State :=
  { State.reset with param := s.param, mem := s.mem, env := s.env }

/-! ### The append and read primitives -/

/-- `put_bytes(L)` (R180): all or nothing. -/
def putBytes (L : List Byte) (s : State) : Out :=
  if s.param.txBytes < s.tx.len.toNat + L.length then .next (s.raise .bufFull)
  else
    let t := s.setTxBytes s.tx.len.toNat L
    .next ({ t with tx := { t.tx with len := t.tx.len + BitVec.ofNat 17 L.length } }).completeOk

/-- A rule that reads the request body. In a state whose RX_BODY_LEN exceeds RXBUF_BYTES, which R58 excludes, its reads
could leave the buffer, so it stops (R74). -/
def withBody (s : State) (k : Out) : Out :=
  if s.param.rxBytes < s.rx.bodyLen.toNat then .fault .rxIndex else k

/-- Advances RX_POS by the bytes read (R51). -/
def State.advancePos (n : Nat) (s : State) : State :=
  { s with rx := { s.rx with pos := s.rx.pos + BitVec.ofNat 17 n } }

/-- `get_bytes(n)` (R210), then the rest of the command on the bytes read: all or nothing. -/
def getBytes (n : Nat) (k : List Byte → State → State) (s : State) : Out :=
  withBody s
    (if s.rx.bodyLen.toNat < s.rx.pos.toNat + n then .next (s.raise .endOfData)
    else .next (k (s.rxBytesAt s.rx.pos.toNat n) (s.advancePos n)))

/-- `VALUE <- v` (spec/10_state.md R45). -/
def State.setValue (v : Word) (s : State) : State := { s with value := v }

end Sys2Proof.Machine
end

