-- ==== Sys2Proof/Machine/Operands.lean ====
section
/-! DEFINITION. Operands and data encodings: immediates, big-endian integers and unsigned varints
(spec/30_encoding.md R104 to R108, R112; spec/20_memory.md R70; spec/42_txbuild.md R182). -/
namespace Sys2Proof.Machine

/-- The operand of format I: IMM zero-extended (R112). -/
def immOperand (imm : Half) : Word := imm.setWidth 32

/-- The operand of format I8: IMM[7:0] zero-extended (R112). -/
def imm8Operand (imm : Half) : Word := (imm.extractLsb' 0 8).setWidth 32

/-- `be_bytes_n` of the low `8n` bits of a word: most significant byte first (R9, R70). -/
def beBytes (n : Nat) (v : Word) : List Byte :=
  (List.range n).map fun j => (v >>> (8 * (n - 1 - j))).setWidth 8

/-- Shifts one byte in at the low end: `(acc * 256 + b) mod 2^32` (R150). -/
def shiftIn (acc : Word) (b : Byte) : Word := acc * 256#32 + b.setWidth 32

/-- `L[0] ++ L[1] ++ ...`, zero-extended: the inverse of `beBytes` (R70, R81). -/
def beJoin (L : List Byte) : Word := L.foldl shiftIn 0

/-- The loop of R104 for at most `fuel` groups of 7 bits. -/
def uvGroups : Nat → Nat → List Byte
  | 0, _ => []
  | fuel + 1, u =>
    if u / 128 = 0 then [BitVec.ofNat 8 (u % 128)]
    else BitVec.ofNat 8 (u % 128 + 128) :: uvGroups fuel (u / 128)

/-- `uv_bytes(u)` (R104): 5 groups hold every 32-bit value (R105). -/
def uvBytes (u : Word) : List Byte := uvGroups 5 u.toNat

/-- The loop of R108 from index `i` on, with `value` gathered so far and `fuel` bytes left to look at. -/
def uvDecodeFrom (read : Nat → Byte) (p len : Nat) : Nat → Nat → Nat → Except ErrCode (Word × Nat)
  | 0, _, _ => .error .varintOverflow
  | fuel + 1, i, value =>
    if len ≤ p + i then .error .endOfData
    else
      let b := read (p + i)
      if i = 4 ∧ 0x0F < b.toNat then .error .varintOverflow
      else
        let v := value + b.toNat % 128 * 2 ^ (7 * i)
        if b.toNat < 128 then .ok (BitVec.ofNat 32 v, i + 1)
        else uvDecodeFrom read p len fuel (i + 1) v

/-- `uv_decode(p, len)` (R108) over a buffer: the value and how many bytes it took, or the error raised. -/
def uvDecode (read : Nat → Byte) (p len : Nat) : Except ErrCode (Word × Nat) := uvDecodeFrom read p len 5 0 0

end Sys2Proof.Machine
end

