-- ==== Sys2Proof/Machine/Engine.lean ====
section
/-! DEFINITION. The ENGINE steps of a running DECODE or ENCODE: one stream event or one stream byte a step
(spec/41_frame.md R150, R152 to R158, R160, R162, R163). -/
namespace Sys2Proof.Machine

/-- RX_COUNT counts the byte, and ACC shifts it in while it is one of the first twelve (R150). -/
def State.countByte (b : Byte) (s : State) : State :=
  { s with
    rx := { s.rx with count := s.rx.count + 1 }
    eng := { s.eng with acc := if s.rx.count.toNat ≤ 11 then shiftIn s.eng.acc b else s.eng.acc } }

/-- The register write of frame byte `k`, which completes a field at 3, 5, 7 and 11, from ACC (R150, R154). -/
def State.storeField (k : Nat) (s : State) : State :=
  if k = 3 then { s with rx := { s.rx with size := s.eng.acc } }
  else if k = 5 then { s with rx := { s.rx with apiKey := s.eng.acc.extractLsb' 0 16 } }
  else if k = 7 then { s with rx := { s.rx with apiVersion := s.eng.acc.extractLsb' 0 16 } }
  else if k = 11 then { s with rx := { s.rx with corrId := s.eng.acc } }
  else s

/-- The length check made at frame byte 3, on the declared size (R150, R153). -/
def sizeError (size : Word) (rxBytes : Nat) : Option ErrCode :=
  if size.toInt < 8 then some .malformedHeader
  else if (rxBytes : Int) < size.toInt - 8 then some .frameTooLarge
  else none

/-- The writes of a successful DECODE (R150, R155). -/
def State.finishDecode (s : State) : State :=
  State.completeOk
    { s with
      rx := { s.rx with bodyLen := (s.rx.size - 8#32).setWidth 17, pos := 0 }
      tx := { s.tx with len := 0, corrId := s.rx.corrId } }

/-- Frame byte `k` is the last byte of the frame (R150, R155). -/
def lastByte (k : Nat) (size : Word) : Bool := decide (11 ≤ k ∧ (k : Int) + 1 = 4 + size.toInt)

/-- The DECODE step that consumes a byte (R150). -/
def decodeByte (b : Byte) (s : State) : Out :=
  let k := s.rx.count.toNat
  let t := (s.countByte b).storeField k
  if k = 3 then
    match sizeError t.rx.size t.param.rxBytes with
    | some e => .next (t.failRx e)
    | none => .next t
  else if k < 12 then .next (if lastByte k t.rx.size then t.finishDecode else t)
  else if t.param.rxBytes ≤ k - 12 then .fault .rxIndex
  else
    let u := t.setRxByte (k - 12) b
    .next (if lastByte k u.rx.size then u.finishDecode else u)

/-- The DECODE step that consumes an event (R150, R157, R158). -/
def decodeStep (e : RxEvent) (s : State) : Out :=
  match e with
  | .byte b => decodeByte b s
  | .eos => .next (s.failRx (if s.rx.count = 0 then .endOfStream else .truncatedFrame))
  | .err => .next (s.failRx .rxReadFail)

/-- Byte `j` of the frame a running ENCODE sends, for `j < 8 + ELEN` (R160). -/
def State.frameByte (s : State) (j : Nat) : Byte :=
  if j < 4 then (beBytes 4 s.eng.emsz).getD j 0
  else if j < 8 then (beBytes 4 s.eng.ecid).getD (j - 4) 0
  else s.txByte (j - 8)

/-- TXSINK has accepted a byte: it is delivered after every byte accepted before it (R22), and TX_COUNT counts it (R162). -/
def State.sent (b : Byte) (s : State) : State :=
  { s with
    env := { s.env with txSent := s.env.txSent ++ [b] }
    tx := { s.tx with count := s.tx.count + 1 } }

/-- The ENCODE step that offers byte TX_COUNT and takes TXSINK's answer (R160, R163). -/
def encodeStep (ans : TxAnswer) (s : State) : Out :=
  let j := s.tx.count.toNat
  if 8 ≤ j ∧ s.param.txBytes ≤ j - 8 then .fault .txIndex
  else
    match ans with
    | .err => .next s.failTx
    | .ok =>
      let t := s.sent (s.frameByte j)
      .next (if j + 1 = 8 + t.eng.elen.toNat then t.completeOk else t)

/-- The ENGINE's turn. It has a step only while a DECODE runs and RXSRC offers an event, or an ENCODE runs and TXSINK is
ready to answer; else the command is held, or the block is idle, and nothing changes (R152, R162, R276); no time passes (log 9). -/
def engineTurn (s : State) : Out :=
  match s.eng.eop with
  | .idle => .next s
  | .dec =>
    match s.env.rxPending with
    | [] => .next s
    | e :: rest => decodeStep e { s with env := { s.env with rxPending := rest } }
  | .enc =>
    match s.env.txReady with
    | none => .next s
    | some ans => encodeStep ans { s with env := { s.env with txReady := none } }

end Sys2Proof.Machine
end

