-- ==== Sys2Proof/Machine/Frame.lean ====
section
/-! DEFINITION. The issue steps of the frame commands DECODE and ENCODE (spec/41_frame.md R150, R151, R160, R161); their ENGINE
steps are in Machine/Engine.lean. -/
namespace Sys2Proof.Machine

/-- What the issue of a DECODE writes once its channel check has passed (R150, R151). -/
def State.startDecode (s : State) : State :=
  { s with
    rx := { s.rx with count := 0, bodyLen := 0, pos := 0 }
    eng := { s.eng with eop := .dec } }

/-- What the issue of an ENCODE writes once its channel check has passed: the operands are latched (R160, R161). -/
def State.startEncode (s : State) : State :=
  { s with
    tx := { s.tx with count := 0 }
    eng := { s.eng with
      eop := .enc, elen := s.tx.len, ecid := s.tx.corrId, emsz := 4#32 + s.tx.len.setWidth 32 } }

/-- DECODE, issue step (R150). -/
def execDecode (s : State) : Out :=
  let s := s.beginIssue Instr.decode.opc
  if s.status.rxClosed then .next (s.raise .rxClosedErr) else .next s.startDecode

/-- ENCODE, issue step (R160). -/
def execEncode (s : State) : Out :=
  let s := s.beginIssue Instr.encode.opc
  if s.status.txClosed then .next (s.raise .txClosedErr) else .next s.startEncode

end Sys2Proof.Machine
end

