-- ==== Sys2Proof/Machine/RxRead.lean ====
section
/-! DEFINITION. The request-body commands RXSEEK and GET (spec/43_rxread.md R210 to R218). -/
namespace Sys2Proof.Machine

/-- RXSEEK (R211). -/
def execRxseek (off : Half) (s : State) : Out :=
  let s := s.beginIssue (Instr.rxseek off).opc
  if s.rx.bodyLen.toNat < off.toNat then .next (s.raise .endOfData)
  else .next ({ s with rx := { s.rx with pos := off.setWidth 17 } }).completeOk

/-- GET8: one byte, zero-extended (R213). -/
def execGet8 (s : State) : Out :=
  getBytes 1 (fun L t => (t.setValue (beJoin L)).completeOk) (s.beginIssue Instr.get8.opc)

/-- GET16: two bytes big-endian, sign-extended (R214). -/
def execGet16 (s : State) : Out :=
  getBytes 2 (fun L t => (t.setValue (((beJoin L).setWidth 16).signExtend 32)).completeOk) (s.beginIssue Instr.get16.opc)

/-- GET32: four bytes big-endian (R215). -/
def execGet32 (s : State) : Out :=
  getBytes 4 (fun L t => (t.setValue (beJoin L)).completeOk) (s.beginIssue Instr.get32.opc)

/-- `uv_decode` at the cursor (R108), then the rest of the command on the value and the advanced cursor. -/
def getVarint (k : Word → State → State) (s : State) : Out :=
  withBody s
    (match uvDecode s.rxByte s.rx.pos.toNat s.rx.bodyLen.toNat with
    | .error e => .next (s.raise e)
    | .ok (u, n) => .next (k u (s.advancePos n)))

/-- GETUV (R216). -/
def execGetuv (s : State) : Out :=
  getVarint (fun u t => (t.setValue u).completeOk) (s.beginIssue Instr.getuv.opc)

/-- `STATUS.VNULL <- b` (spec/10_state.md R41). -/
def State.setVnull (b : Bool) (s : State) : State := { s with status := { s.status with vnull := b } }

/-- GETCA: a prefix 0 is the absent array, any other one the count plus 1 (R217). -/
def execGetca (s : State) : Out :=
  getVarint
    (fun u t =>
      if u = 0 then ((t.setVnull true).setValue 0).completeOk else ((t.setVnull false).setValue (u - 1)).completeOk)
    (s.beginIssue Instr.getca.opc)

end Sys2Proof.Machine
end

