-- ==== Sys2Proof/Machine/TxBuild.lean ====
section
/-! DEFINITION. The response-body commands TXSEEK and PUT (spec/42_txbuild.md R180 to R188). A PUT's operand is VALUE or its
immediate (R182); each form is its issue followed by the shared append of its kind. -/
namespace Sys2Proof.Machine

/-- Appends one byte, `v[7:0]` (R183). -/
def append8 (v : Word) (s : State) : Out := putBytes (beBytes 1 v) s

/-- Appends 16 bits big-endian, `v[15:0]` (R184). -/
def append16 (v : Word) (s : State) : Out := putBytes (beBytes 2 v) s

/-- Appends 32 bits big-endian (R185). -/
def append32 (v : Word) (s : State) : Out := putBytes (beBytes 4 v) s

/-- Appends an unsigned varint (R186). -/
def appendUv (v : Word) (s : State) : Out := putBytes (uvBytes v) s

/-- Appends the compact-array length of `v` elements; `v + 1` must fit 32 bits, checked before room (R187, R244). -/
def appendCa (v : Word) (s : State) : Out :=
  if v = 0xFFFFFFFF#32 then .next (s.raise .varintOverflow) else putBytes (uvBytes (v + 1)) s

/-- TXSEEK (R181). -/
def execTxseek (off : Half) (s : State) : Out :=
  let s := s.beginIssue (Instr.txseek off).opc
  if s.param.txBytes < off.toNat then .next (s.raise .bufFull)
  else .next ({ s with tx := { s.tx with len := off.setWidth 17 } }).completeOk

/-- PUT8 (R183). -/
def execPut8 (s : State) : Out := append8 s.value (s.beginIssue Instr.put8.opc)

/-- PUT8I (R183). -/
def execPut8i (imm : Half) (s : State) : Out := append8 (imm8Operand imm) (s.beginIssue (Instr.put8i imm).opc)

/-- PUT16 (R184). -/
def execPut16 (s : State) : Out := append16 s.value (s.beginIssue Instr.put16.opc)

/-- PUT16I (R184). -/
def execPut16i (imm : Half) (s : State) : Out := append16 (immOperand imm) (s.beginIssue (Instr.put16i imm).opc)

/-- PUT32 (R185). -/
def execPut32 (s : State) : Out := append32 s.value (s.beginIssue Instr.put32.opc)

/-- PUT32I (R185). -/
def execPut32i (imm : Half) (s : State) : Out := append32 (immOperand imm) (s.beginIssue (Instr.put32i imm).opc)

/-- PUTUV (R186). -/
def execPutuv (s : State) : Out := appendUv s.value (s.beginIssue Instr.putuv.opc)

/-- PUTUVI (R186). -/
def execPutuvi (imm : Half) (s : State) : Out := appendUv (immOperand imm) (s.beginIssue (Instr.putuvi imm).opc)

/-- PUTCA (R187). -/
def execPutca (s : State) : Out := appendCa s.value (s.beginIssue Instr.putca.opc)

/-- PUTCAI (R187). -/
def execPutcai (imm : Half) (s : State) : Out := appendCa (immOperand imm) (s.beginIssue (Instr.putcai imm).opc)

/-- PUTCAN: the absent array's prefix, a varint 0 (R187). -/
def execPutcan (s : State) : Out := appendUv 0 (s.beginIssue Instr.putcan.opc)

end Sys2Proof.Machine
end

