-- ==== Sys2Proof/Machine/Dispatch.lean ====
section
/-! DEFINITION. Dispatch: one arm per command, each one direct call of its meaning. -/
namespace Sys2Proof.Machine

/-- The issue of a command while BUSY = 0 (spec/40_issue.md R130): the common issue effects (R132), then the command's own rule. -/
def exec (i : Instr) (s : State) : Host.Outcome State Fault Refusal :=
  match i with
  | .decode => Sys2Proof.Machine.execDecode s
  | .encode => Sys2Proof.Machine.execEncode s
  | .rxseek off => Sys2Proof.Machine.execRxseek off s
  | .txseek off => Sys2Proof.Machine.execTxseek off s
  | .put8 => Sys2Proof.Machine.execPut8 s
  | .put8i imm => Sys2Proof.Machine.execPut8i imm s
  | .put16 => Sys2Proof.Machine.execPut16 s
  | .put16i imm => Sys2Proof.Machine.execPut16i imm s
  | .put32 => Sys2Proof.Machine.execPut32 s
  | .put32i imm => Sys2Proof.Machine.execPut32i imm s
  | .putuv => Sys2Proof.Machine.execPutuv s
  | .putuvi imm => Sys2Proof.Machine.execPutuvi imm s
  | .putca => Sys2Proof.Machine.execPutca s
  | .putcai imm => Sys2Proof.Machine.execPutcai imm s
  | .putcan => Sys2Proof.Machine.execPutcan s
  | .get8 => Sys2Proof.Machine.execGet8 s
  | .get16 => Sys2Proof.Machine.execGet16 s
  | .get32 => Sys2Proof.Machine.execGet32 s
  | .getuv => Sys2Proof.Machine.execGetuv s
  | .getca => Sys2Proof.Machine.execGetca s

end Sys2Proof.Machine
end

