-- ==== Sys2Proof/Machine/Port.lean ====
section
/-! DEFINITION. The host register port: the register map, the host's reads and writes, and command issue
(spec/10_state.md R27, R29, R31, R33, R44; spec/20_memory.md R72 to R83; spec/40_issue.md R130, R136). -/
namespace Sys2Proof.Machine

/-- The 16 registers (R29). -/
inductive Reg where
  | id | param | ctrl | status | cmd | value | rxSize | rxApiKey | rxApiVersion | rxCorrId | rxBodyLen | rxPos | rxCount
  | txCorrId | txLen | txCount
  deriving DecidableEq, Repr

/-- The access classes (R27). -/
inductive AccessClass where
  | ro | rw | wo | ctrl
  deriving DecidableEq, Repr

/-- The registers in the order of their offsets (R29). -/
def Reg.all : List Reg :=
  [.id, .param, .ctrl, .status, .cmd, .value, .rxSize, .rxApiKey, .rxApiVersion, .rxCorrId, .rxBodyLen, .rxPos, .rxCount,
    .txCorrId, .txLen, .txCount]

/-- The offset column of R29. -/
def Reg.offset : Reg → Nat
  | .id => 0x000
  | .param => 0x004
  | .ctrl => 0x008
  | .status => 0x00C
  | .cmd => 0x010
  | .value => 0x014
  | .rxSize => 0x018
  | .rxApiKey => 0x01C
  | .rxApiVersion => 0x020
  | .rxCorrId => 0x024
  | .rxBodyLen => 0x028
  | .rxPos => 0x02C
  | .rxCount => 0x030
  | .txCorrId => 0x034
  | .txLen => 0x038
  | .txCount => 0x03C

/-- The access column of R29. -/
def Reg.access : Reg → AccessClass
  | .ctrl => .ctrl
  | .cmd => .wo
  | .value => .rw
  | .txCorrId => .rw
  | .id => .ro
  | .param => .ro
  | .status => .ro
  | .rxSize => .ro
  | .rxApiKey => .ro
  | .rxApiVersion => .ro
  | .rxCorrId => .ro
  | .rxBodyLen => .ro
  | .rxPos => .ro
  | .rxCount => .ro
  | .txLen => .ro
  | .txCount => .ro

/-- The register at an address of the register window, if there is one (R78, R79). -/
def Reg.at? (a : Nat) : Option Reg := Reg.all.find? fun r => r.offset == a

/-- ID, hard-wired (R31). -/
def idValue : Word := 0x4B464331

/-- The word a host read of a register returns: narrow registers zero-extended, the two int16 header fields sign-extended,
CMD 0 (R26, R29, R44, R47, R48). -/
def State.readReg (s : State) : Reg → Word
  | .id => idValue
  | .param => s.paramWord
  | .ctrl => s.ctrlWord
  | .status => s.statusWord
  | .cmd => 0
  | .value => s.value
  | .rxSize => s.rx.size
  | .rxApiKey => s.rx.apiKey.signExtend 32
  | .rxApiVersion => s.rx.apiVersion.signExtend 32
  | .rxCorrId => s.rx.corrId
  | .rxBodyLen => s.rx.bodyLen.setWidth 32
  | .rxPos => s.rx.pos.setWidth 32
  | .rxCount => s.rx.count.setWidth 32
  | .txCorrId => s.tx.corrId
  | .txLen => s.tx.len.setWidth 32
  | .txCount => s.tx.count.setWidth 32

/-- What an access reaches. -/
inductive Target where
  | reg (r : Reg)
  | rxBuf (o : Nat)
  | txBuf (o : Nat)
  deriving DecidableEq, Repr

/-- The target of an access of `n` bytes at `addr`; none is a bus error: unmapped, misaligned, of a wrong width, or not
wholly inside one buffer (R72, R78, R79, R81, R83). -/
def target (p : Param) (addr : Addr) (n : Width) : Option Target :=
  let a := addr.toNat
  if a < 0x1000 then
    if n = .four then (Reg.at? a).map .reg else none
  else if rxBase ≤ a ∧ a + n.bytes ≤ rxBase + p.rxBytes ∧ a % n.bytes = 0 then some (.rxBuf (a - rxBase))
  else if txBase ≤ a ∧ a + n.bytes ≤ txBase + p.txBytes ∧ a % n.bytes = 0 then some (.txBuf (a - txBase))
  else none

/-- What a host read is answered; big-endian lanes in the buffers (R76, R78, R81). -/
def State.hostRead (s : State) (addr : Addr) (n : Width) : HostResp :=
  match target s.param addr n with
  | none => .busErr
  | some (.reg r) => .okRead (s.readReg r)
  | some (.rxBuf o) => .okRead (beJoin (s.rxBytesAt o n.bytes))
  | some (.txBuf o) => .okRead (beJoin (s.txBytesAt o n.bytes))

/-- Command issue while BUSY = 0 (R130): a word that is no command ends with ILLEGAL_CMD (R136). -/
def issue (w : Word) (s : State) : Out :=
  match decode w with
  | .ok i => exec i s
  | .error _ => .next ((s.beginIssue (opcOf w)).raise .illegalCmd)

/-- A write to CTRL: SRST wins, else CLR acts and IE takes its bit (R33, R256, R271). -/
def State.writeCtrl (v : Word) (s : State) : State :=
  if v.getLsbD 0 then s.resetBlock
  else
    let t := if v.getLsbD 1 then s.clearResult else s
    { t with ie := v.getLsbD 2 }

/-- The store of a write to an RW register (R45, R53). -/
def State.storeReg (r : Reg) (v : Word) (s : State) : State :=
  if r = .value then { s with value := v }
  else if r = .txCorrId then { s with tx := { s.tx with corrId := v } }
  else s

/-- A 32-bit host write to a register, by its class (R27, R78, R80). -/
def writeReg (r : Reg) (v : Word) (s : State) : Out :=
  match r.access with
  | .ro => .next s
  | .ctrl => .next (s.writeCtrl v)
  | .wo => if s.busy then .next s.rejectWrite else issue v s
  | .rw => if s.busy then .next s.rejectWrite else .next (s.storeReg r v)

/-- Records the answer of a host access. -/
def State.respond (r : HostResp) (s : State) : State := { s with env := { s.env with hostResp := some r } }

/-- A host write (R77): bus errors change nothing (R79, R82); refused while BUSY (R80); big-endian lanes in TXBUF (R81). -/
def hostWrite (addr : Addr) (n : Width) (v : Word) (s : State) : Out :=
  match target s.param addr n with
  | none => .next (s.respond .busErr)
  | some (.rxBuf _) => .next (s.respond .busErr)
  | some (.reg r) => writeReg r v (s.respond .okWrite)
  | some (.txBuf o) =>
    if s.busy then .next (s.respond .okWrite).rejectWrite
    else .next ((s.respond .okWrite).setTxBytes o (beBytes n.bytes v))

/-- One HOST step (R76, R77). -/
def hostTurn (a : HostAccess) (s : State) : Out :=
  match a with
  | .read addr n => .next (s.respond (s.hostRead addr n))
  | .write addr n v => hostWrite addr n v s

/-- The host write that issues a command word: `MemWrite(0x010, 4, w)` (R44). -/
def cmdWrite (w : Word) : HostAccess := .write 0x010 .four w

end Sys2Proof.Machine
end

