-- ==== Sys2Proof/Machine/Agents.lean ====
section
/-! DEFINITION. The steps of the five agents and which of them comes next (spec/00_scope.md R6; spec/10_state.md R21, R22;
spec/20_memory.md R87; spec/70_reset_and_hazards.md R270, R272). -/
namespace Sys2Proof.Machine

/-- RXSRC has its sequence's next event; a sequence that has ended has none (R21). -/
def State.rxArrive (e : RxEvent) (s : State) : State :=
  if s.env.rxEnded then s
  else { s with env := { s.env with rxPending := s.env.rxPending ++ [e], rxEnded := e.isEnd } }

/-- TXSINK becomes ready to give an answer (R22). -/
def State.txReadyWith (a : TxAnswer) (s : State) : State := { s with env := { s.env with txReady := some a } }

/-- The platform attaches the streams of a new connection, between commands: DESIGN CHOICE (R272; log 8). -/
def State.attachStreams (s : State) : State :=
  if s.busy then s
  else { s with env := { s.env with rxPending := [], rxEnded := false, txReady := none, txSent := [] } }

/-- One atomic step of one agent (R87). -/
def runTurn (t : Turn) (s : State) : Out :=
  match t with
  | .host a => hostTurn a s
  | .engine => engineTurn s
  | .rxsrc e => .next (s.rxArrive e)
  | .txsink a => .next (s.txReadyWith a)
  | .attach => .next s.attachStreams
  | .reset => .next s.resetBlock

/-- The turn that comes next: the first one placed, or a free one when none is (log 3). -/
def State.nextTurn (s : State) : Turn :=
  match s.env.agenda with
  | t :: _ => t
  | [] => Config.freeTurn s.env.draws

/-- The state once that turn has been taken off the agenda, or drawn. -/
def State.afterTurn (s : State) : State :=
  match s.env.agenda with
  | _ :: rest => { s with env := { s.env with agenda := rest } }
  | [] => { s with env := { s.env with draws := s.env.draws + 1 } }

/-- The agent whose turn it is takes its step. -/
def takeTurn (s : State) : Out := runTurn s.nextTurn s.afterTurn

/-- Places a turn before all others. -/
def State.place (t : Turn) (s : State) : State := { s with env := { s.env with agenda := t :: s.env.agenda } }

/-- Makes the issue of a word the next step: no command is running, and the HOST's turn comes with its write to CMD. -/
def State.placeCommand (w : Word) (s : State) : State :=
  State.place (.host (cmdWrite w)) { s with eng := { s.eng with eop := .idle } }

end Sys2Proof.Machine
end

