-- ==== Sys2Proof/Machine/Step.lean ====
section
/-! DEFINITION. One step of the machine: the next agent's atomic step (spec/20_memory.md R87); and the placing of a command
word where the next step issues it. -/
namespace Sys2Proof.Machine

/-- One atomic step of the agent that moves next. -/
def step (s : State) : Host.Outcome State Fault Refusal := takeTurn s

/-- KFC fetches no instruction: a command is a word the HOST writes to CMD (R24, R130). This places that write as the next
turn and lets no command be running, so that the write is not refused (R80): DESIGN CHOICE (log 10). -/
def State.withFetchWord (s : State) (nbits w : Nat) : State := s.placeCommand (tableWord nbits w)

end Sys2Proof.Machine
end

