-- ==== Sys2Proof/Machine/Assembler.lean ====
section
/-! DEFINITION. The assembler's syntax and pseudo-commands, and the host script notation (spec/30_encoding.md R117 to R119).
A line is a list of characters; what R117 leaves open of its text is a DESIGN CHOICE (log 11). -/
namespace Sys2Proof.Machine

/-- Why a line does not assemble (R117). -/
inductive AsmError where
  | unknownMnemonic
  | operandMissing
  | operandNotAllowed
  | tooManyOperands
  | badLiteral
  | outOfRange
  deriving DecidableEq, Repr

/-- The lowest and highest literal a format takes; none where it takes no operand (R117). -/
def literalRange : Format → Option (Int × Int)
  | .z => none
  | .o => some (0, 65535)
  | .i => some (0, 65535)
  | .i8 => some (0, 255)
  | .zn => none

/-- What a mnemonic stands for: the literals it takes, and the command it makes of one (0 where it takes none). -/
structure AsmEntry where
  mnemonic : List Char
  range : Option (Int × Int)
  build : Int → Instr

/-- A mnemonic of the opcode map (R117). -/
def asmEntryOf (r : Row) : AsmEntry :=
  ⟨r.mnemonic.toList, literalRange r.format, fun v => r.build (BitVec.ofInt 16 v)⟩

/-- The pseudo-commands (R118). -/
def pseudoCommands : List AsmEntry :=
  [ ⟨"TXCLR".toList, none, fun _ => .txseek 0⟩,
    ⟨"RXREWIND".toList, none, fun _ => .rxseek 0⟩,
    ⟨"PUTTAG".toList, none, fun _ => .putuvi 0⟩,
    ⟨"PUTEMPTYCA".toList, none, fun _ => .putcai 0⟩,
    ⟨"PUTI16".toList, some (-32768, 32767), fun v => .put16i (BitVec.ofInt 16 v)⟩ ]

/-- Every mnemonic of the assembler. -/
def asmEntries : List AsmEntry := opcodeMap.map asmEntryOf ++ pseudoCommands

/-- The value of a digit in a base up to 16. -/
def digitValue (base : Nat) (c : Char) : Option Nat :=
  let n := c.toNat
  let v :=
    if 0x30 ≤ n ∧ n ≤ 0x39 then some (n - 0x30)
    else if 0x41 ≤ n ∧ n ≤ 0x46 then some (n - 0x41 + 10)
    else if 0x61 ≤ n ∧ n ≤ 0x66 then some (n - 0x61 + 10)
    else none
  v.filter fun d => d < base

/-- The value of a run of digits read onto `acc`. -/
def digitsValue (base : Nat) : Nat → List Char → Option Nat
  | acc, [] => some acc
  | acc, c :: cs =>
    match digitValue base c with
    | some d => digitsValue base (acc * base + d) cs
    | none => none

/-- An unsigned literal, decimal or `0x` hex, of at least one digit (R117). -/
def unsignedLiteral : List Char → Option Nat
  | [] => none
  | ['0', 'x'] => none
  | '0' :: 'x' :: cs => digitsValue 16 0 cs
  | cs => digitsValue 10 0 cs

/-- A literal; a leading minus sign makes it negative, for PUTI16 (R117, R118). -/
def literal : List Char → Option Int
  | '-' :: cs => (unsignedLiteral cs).map fun n : Nat => -(n : Int)
  | cs => (unsignedLiteral cs).map fun n : Nat => (n : Int)

/-- A mnemonic and its operands assembled: an out-of-range literal is an error, not a truncation (R117). -/
def assembleEntry (e : AsmEntry) (operands : List (List Char)) : Except AsmError Instr :=
  match e.range, operands with
  | none, [] => .ok (e.build 0)
  | none, _ :: _ => .error .operandNotAllowed
  | some _, [] => .error .operandMissing
  | some _, _ :: _ :: _ => .error .tooManyOperands
  | some (lo, hi), [cs] =>
    match literal cs with
    | none => .error .badLiteral
    | some v => if lo ≤ v ∧ v ≤ hi then .ok (e.build v) else .error .outOfRange

/-- The words of a line, less its comment: `;` starts one (R117). -/
def lineWords (line : List Char) : List (List Char) :=
  ((line.takeWhile fun c => c != ';').splitOnP fun c => c == ' ' || c == '\t').filter fun w => !w.isEmpty

/-- Assembles one line: at most one command, none on a blank line (R117). -/
def assemble (line : List Char) : Except AsmError (Option Instr) :=
  match lineWords line with
  | [] => .ok none
  | name :: operands =>
    match asmEntries.find? fun e => e.mnemonic == name with
    | none => .error .unknownMnemonic
    | some e => (assembleEntry e operands).map some

/-- A line of a host script (R119). -/
inductive ScriptLine where
  /-- `wr REG, v` -/
  | wr (r : Reg) (v : Word)
  /-- `rd REG` -/
  | rd (r : Reg)
  /-- `wrb TX+o, b` -/
  | wrb (o : Nat) (b : Byte)
  /-- `rdb RX+o` -/
  | rdb (o : Nat)
  /-- `cmd X` -/
  | cmd (i : Instr)
  /-- `wait` -/
  | wait
  deriving DecidableEq, Repr

/-- The host access a line makes; `wait` repeats its own (R119). -/
def ScriptLine.access : ScriptLine → HostAccess
  | .wr r v => .write (BitVec.ofNat 18 r.offset) .four v
  | .rd r => .read (BitVec.ofNat 18 r.offset) .four
  | .wrb o b => .write (BitVec.ofNat 18 (txBase + o)) .one (b.setWidth 32)
  | .rdb o => .read (BitVec.ofNat 18 (rxBase + o)) .one
  | .cmd i => cmdWrite (encode i)
  | .wait => .read (BitVec.ofNat 18 Reg.status.offset) .four

/-- Whether the line is done once its access has been answered: `wait` goes on until it has read BUSY = 0 (R119). -/
def ScriptLine.isDone : ScriptLine → HostResp → Bool
  | .wait, r => !r.data.getLsbD 0
  | .wr _ _, _ => true
  | .rd _, _ => true
  | .wrb _ _, _ => true
  | .rdb _, _ => true
  | .cmd _, _ => true

end Sys2Proof.Machine
end

