-- ==== Sys2Proof/Safety.lean ====
section
/-! DEFINITION. What a sound state and a safe step are: the invariants of spec/10_state.md R58, the ranges of the counters
(R52, R55), the engine's and the streams' own invariants, and quiescence (spec/70_reset_and_hazards.md R276). -/
namespace Sys2Proof.Machine

/-- The clauses of R58. BUSY = 1 exactly when EOP ≠ IDLE holds by definition of `State.busy`. -/
structure State.R58 (s : State) : Prop where
  done_err : ¬ (s.status.done = true ∧ s.status.err = true)
  errCode_err : s.status.errCode = .noError ↔ s.status.err = false
  pos_le : s.rx.pos.toNat ≤ s.rx.bodyLen.toNat
  bodyLen_le : s.rx.bodyLen.toNat ≤ s.param.rxBytes
  txLen_le : s.tx.len.toNat ≤ s.param.txBytes
  enc_emsz : s.eng.eop = .enc → s.eng.emsz = 4#32 + s.eng.elen.setWidth 32
  enc_count : s.eng.eop = .enc → s.tx.count.toNat ≤ 8 + s.eng.elen.toNat
  dec_bodyLen : s.eng.eop = .dec → s.rx.bodyLen = 0

/-- The ranges of the byte counters (R52, R55). -/
structure State.CountsInRange (s : State) : Prop where
  rx_count : s.rx.count.toNat ≤ 12 + s.param.rxBytes
  tx_count : s.tx.count.toNat ≤ 8 + s.param.txBytes

/-- What holds while a command runs: no result yet (R132); a DECODE past its size field has a legal size and bytes left
to take (R150); an ENCODE has a legal length and bytes left to send (R160, R161). -/
structure State.EngineInv (s : State) : Prop where
  no_result : s.eng.eop ≠ .idle → s.status.done = false ∧ s.status.err = false
  dec_size : s.eng.eop = .dec → 4 ≤ s.rx.count.toNat →
    sizeError s.rx.size s.param.rxBytes = none ∧ (s.rx.count.toNat : Int) < 4 + s.rx.size.toInt
  enc_len : s.eng.eop = .enc →
    s.eng.elen.toNat ≤ s.param.txBytes ∧ s.tx.count.toNat < 8 + s.eng.elen.toNat

/-- A host address of a buffer byte (R72). -/
def Mapped (p : Param) (a : Nat) : Prop :=
  (rxBase ≤ a ∧ a < rxBase + p.rxBytes) ∨ (txBase ≤ a ∧ a < txBase + p.txBytes)

/-- The memory is in its canonical form and lists only bytes of the two buffers (R72, R74). -/
structure State.MemInv (s : State) : Prop where
  wf : Memory.wf s.mem
  mapped : ∀ c ∈ s.mem, Mapped s.param c.1

/-- RXSRC's sequence ends in at most one end event, and offers nothing after it (R21). -/
structure Env.StreamInv (e : Env) : Prop where
  end_last : ∀ x ∈ e.rxPending.dropLast, x.isEnd = false
  not_ended : e.rxEnded = false → ∀ x ∈ e.rxPending, x.isEnd = false

/-- The invariant of KFC and its environment. -/
structure State.Inv (s : State) : Prop where
  r58 : s.R58
  counts : s.CountsInRange
  engine : s.EngineInv
  memory : s.MemInv
  stream : s.env.StreamInv

/-- A safe answer: the machine goes on. -/
def Safe (o : Out) : Prop := ∃ t, o = .next t

/-- Quiescence: no command is running (R276). -/
def State.quiescent (s : State) : Prop := s.busy = false

/-- The block's own state is the same; only the environment may differ (R23). -/
def SameBlock (s t : State) : Prop := t = { s with env := t.env }

/-! ### The terms the statements are written in -/

/-- STATUS once a command of OPC field `opc` has succeeded (R132, R134). -/
def doneStatus (opc : Byte) (s : State) : Status :=
  { s.status with done := true, err := false, errCode := .noError, lastOpc := opc }

/-- The state once a command of OPC field `opc` has ended in error `e` and written nothing else (R132, R133, R135). -/
def rejected (opc : Byte) (e : ErrCode) (s : State) : State :=
  { s with
    status := { s.status with done := false, err := true, errCode := e, lastOpc := opc }
    eng := { s.eng with eop := .idle } }

/-- `t` is `s` after a PUT of OPC field `opc` that appended `L` (R180): the cursor advanced, the bytes stored at it, every
other byte and register as before. -/
structure Appends (opc : Byte) (L : List Byte) (s t : State) : Prop where
  len : t.tx.len.toNat = s.tx.len.toNat + L.length
  stored : ∀ j, j < L.length → t.txByte (s.tx.len.toNat + j) = L.getD j 0
  others : ∀ a, ¬ (txBase + s.tx.len.toNat ≤ a ∧ a < txBase + s.tx.len.toNat + L.length) → t.byteAt a = s.byteAt a
  rest : t = { s with
    tx := { s.tx with len := t.tx.len }, status := doneStatus opc s, eng := { s.eng with eop := .idle }, mem := t.mem }

/-- The two ends of a PUT (R180): with room it appends `L`, without room it ends with BUF_FULL and writes nothing else. -/
def AppendsOrFull (i : Instr) (opc : Byte) (L : List Byte) (s : State) : Prop :=
  (s.tx.len.toNat + L.length ≤ s.param.txBytes → ∃ t, exec i s = .next t ∧ Appends opc L s t) ∧
  (s.param.txBytes < s.tx.len.toNat + L.length → exec i s = .next (rejected opc .bufFull s))

/-- `t` is `s` after a GET of OPC field `opc` that took `n` bytes and gave `v` (R210, R212): everything else, and every byte
of memory, as before. -/
structure Reads (opc : Byte) (n : Nat) (v : Word) (s t : State) : Prop where
  pos : t.rx.pos.toNat = s.rx.pos.toNat + n
  memory : ∀ a, t.byteAt a = s.byteAt a
  rest : t = { s with
    value := v, rx := { s.rx with pos := t.rx.pos }, status := doneStatus opc s, eng := { s.eng with eop := .idle } }

/-- The two ends of a GET of `n` bytes (R210): inside the body it gives `v`, past its end it ends with END_OF_DATA and writes
nothing else. -/
def ReadsOrEnds (i : Instr) (opc : Byte) (n : Nat) (v : Word) (s : State) : Prop :=
  (s.rx.pos.toNat + n ≤ s.rx.bodyLen.toNat → ∃ t, exec i s = .next t ∧ Reads opc n v s t) ∧
  (s.rx.bodyLen.toNat < s.rx.pos.toNat + n → exec i s = .next (rejected opc .endOfData s))

/-- An unsigned varint of `n` bytes stands at offset `p`: every byte but the last has its continuation bit, the last has
not, and a fifth is at most 0x0F (R104, R108). -/
structure VarintAt (read : Nat → Byte) (p n : Nat) : Prop where
  len : 1 ≤ n ∧ n ≤ 5
  more : ∀ j, j + 1 < n → 128 ≤ (read (p + j)).toNat
  last : (read (p + (n - 1))).toNat < 128
  fits : n = 5 → (read (p + 4)).toNat ≤ 15

/-- The value of `n` groups of 7 bits, least significant first (R108). -/
def varintValue (read : Nat → Byte) (p n : Nat) : Nat :=
  ((List.range n).map fun j => (read (p + j)).toNat % 128 * 2 ^ (7 * j)).sum

/-- The three ends of a varint read at the cursor (R108): `good n u` for a varint of `n` bytes inside the body and value
`u`; END_OF_DATA where the body ends before a byte without its continuation bit; VARINT_OVERFLOW for a fifth byte above
0x0F. -/
def VarintEnds (i : Instr) (opc : Byte) (good : Nat → Word → State → Prop) (s : State) : Prop :=
  (∀ n, VarintAt s.rxByte s.rx.pos.toNat n → s.rx.pos.toNat + n ≤ s.rx.bodyLen.toNat →
    ∃ t, exec i s = .next t ∧ good n (BitVec.ofNat 32 (varintValue s.rxByte s.rx.pos.toNat n)) t) ∧
  (∀ m, m < 5 → (∀ j, j < m → 128 ≤ (s.rxByte (s.rx.pos.toNat + j)).toNat) →
    (∀ j, j < m → s.rx.pos.toNat + j < s.rx.bodyLen.toNat) → s.rx.bodyLen.toNat ≤ s.rx.pos.toNat + m →
    exec i s = .next (rejected opc .endOfData s)) ∧
  ((∀ j, j < 4 → 128 ≤ (s.rxByte (s.rx.pos.toNat + j)).toNat) → s.rx.pos.toNat + 5 ≤ s.rx.bodyLen.toNat →
    15 < (s.rxByte (s.rx.pos.toNat + 4)).toNat → exec i s = .next (rejected opc .varintOverflow s))

/-- `be_bytes_2`, in the manner of R9. -/
def be2 (v : Half) : List Byte := [v.extractLsb' 8 8, v.extractLsb' 0 8]

/-- `be_bytes_4` as R9 writes it. -/
def be4 (v : Word) : List Byte := [v.extractLsb' 24 8, v.extractLsb' 16 8, v.extractLsb' 8 8, v.extractLsb' 0 8]

/-- TXBUF offsets 0 to 3 hold the four bytes `L`, as a host sees them in every width (spec/20_memory.md R81, R93). -/
structure ReadsAllWidths (L : List Byte) (s : State) : Prop where
  four : s.hostRead 0x20000 .four = .okRead (L.getD 0 0 ++ L.getD 1 0 ++ L.getD 2 0 ++ L.getD 3 0)
  two : s.hostRead 0x20000 .two = .okRead ((L.getD 0 0 ++ L.getD 1 0).setWidth 32) ∧
    s.hostRead 0x20002 .two = .okRead ((L.getD 2 0 ++ L.getD 3 0).setWidth 32)
  one : s.hostRead 0x20000 .one = .okRead ((L.getD 0 0).setWidth 32) ∧
    s.hostRead 0x20001 .one = .okRead ((L.getD 1 0).setWidth 32) ∧
    s.hostRead 0x20002 .one = .okRead ((L.getD 2 0).setWidth 32) ∧
    s.hostRead 0x20003 .one = .okRead ((L.getD 3 0).setWidth 32)

/-- A request frame (R100), for a body its `declaredSize` can count. -/
def requestFrame (apiKey apiVersion : Half) (corrId : Word) (body : List Byte) : List Byte :=
  be4 (BitVec.ofNat 32 (8 + body.length)) ++ be2 apiKey ++ be2 apiVersion ++ be4 corrId ++ body

/-- A response frame (R101). -/
def responseFrame (corrId : Word) (body : List Byte) : List Byte :=
  be4 (BitVec.ofNat 32 (4 + body.length)) ++ be4 corrId ++ body

/-- A turn by which the block can be reset: RST, or a write of 1 to CTRL.SRST (R270, R271). -/
def ResetsBlock (t : Turn) : Prop :=
  t = .reset ∨ ∃ v : Word, t = .host (.write 0x008 .four v) ∧ v.getLsbD 0 = true

end Sys2Proof.Machine
end

