-- ==== Sys2Proof/Certificates/Slice0/Obligations.lean ====
section
/-! DEFINITION. The statements about the Kafka Frame Codec for the provers. -/

open Sys2Proof Sys2Proof.Machine

/-! ### Encoding -/

/-- Decoding the word of a well-formed command gives it back, for every operand (30_encoding.md R110, R111, R113). -/
def Obligations.DecodeOfEncode : Prop :=
  ∀ i : Instr, i.wellFormed = true → decode (encode i) = .ok i

/-- A word that decodes is the word of the command it decodes to, which is well-formed: no bit of it is dropped (R110, R113). -/
def Obligations.EncodeOfDecode : Prop :=
  ∀ (w : Word) (i : Instr), decode w = .ok i → encode i = w ∧ i.wellFormed = true

/-- The worked encodings of R120, both ways. -/
def Obligations.WorkedEncodings : Prop :=
  ∀ p ∈ [(Instr.decode, (0x01000000 : Word)), (.encode, 0x02000000), (.put16i 0x0012, 0x11800012), (.put8i 0x41, 0x10800041),
      (.putcai 2, 0x14800002), (.putcan, 0x14400000), (.rxseek 6, 0x08000006), (.txseek 0x0100, 0x09000100),
      (.get16, 0x21000000)],
    encode p.1 = p.2 ∧ decode p.2 = .ok p.1

/-- The decoder (30_encoding.md R113, R114, R115): no word matches two rows; a word that a row selects is that row's command with
its IMM; a word that no row selects is illegal; and no row selects a word whose opcode is reserved. -/
def Obligations.DecoderFindsTheRow : Prop :=
  ∀ w : Word,
    (opcodeMap.filter fun r => r.selects w).length ≤ 1 ∧
    (∀ r ∈ opcodeMap, w &&& r.mask = r.pattern → decode w = .ok (r.build (immOf w))) ∧
    ((∀ r ∈ opcodeMap, w &&& r.mask ≠ r.pattern) → ∃ e, decode w = .error e) ∧
    (∀ o : Nat, (w >>> 24).toNat = o →
      (o = 0 ∨ (3 ≤ o ∧ o ≤ 7) ∨ (0x0A ≤ o ∧ o ≤ 0x0F) ∨ (0x15 ≤ o ∧ o ≤ 0x1F) ∨ 0x25 ≤ o) →
      ∀ r ∈ opcodeMap, w &&& r.mask ≠ r.pattern)

/-! ### Issue -/

/-- A step is the next agent's atomic step: the first turn placed is taken off the agenda and run; where none is placed a
free turn is drawn and run (20_memory.md R87; the agenda and the draw are the model's own, log 3). -/
def Obligations.StepTakesTheNextTurn : Prop :=
  ∀ s : State,
    (∀ t rest, s.env.agenda = t :: rest → step s = runTurn t { s with env := { s.env with agenda := rest } }) ∧
    (s.env.agenda = [] →
      step s = runTurn (Config.freeTurn s.env.draws) { s with env := { s.env with draws := s.env.draws + 1 } })

/-- A step runs the decoded command (40_issue.md R130): a 32-bit host write of `w` to CMD while BUSY = 0 is `exec` of the
command that `w` decodes to, or ends with ILLEGAL_CMD; while BUSY = 1 it issues nothing. Around `exec` the step takes the turn
off the agenda and answers OK. -/
def Obligations.StepIssuesTheCommand : Prop :=
  ∀ (s : State) (w : Word) (rest : List Turn), s.env.agenda = .host (.write 0x010 .four w) :: rest →
    let t := { s with env := { s.env with agenda := rest, hostResp := some .okWrite } }
    (s.busy = false → ∀ i, decode w = .ok i → step s = exec i t) ∧
    (s.busy = false → ∀ e, decode w = .error e → step s = .next (rejected (opcOf w) .illegalCmd t)) ∧
    (s.busy = true → step s = .next { t with status := { t.status with wrej := true } })

/-- An illegal word (40_issue.md R136): any word matching no row ends with ILLEGAL_CMD; the only writes are DONE, ERR,
ERRCODE, LASTOPC; the word 0 is illegal. The example: 0x0300_0000 from reset gives STATUS = 0x0003_0094. -/
def Obligations.IllegalWordEnds : Prop :=
  (∀ (w : Word) (s : State), (∀ r ∈ opcodeMap, w &&& r.mask ≠ r.pattern) →
    issue w s = .next (rejected ((w >>> 24).setWidth 8) .illegalCmd s)) ∧
  (∀ s : State, issue 0 s = .next (rejected 0x00 .illegalCmd s)) ∧
  (rejected 0x03 .illegalCmd State.reset).statusWord = 0x00030094#32 ∧
  issue 0x03000000 State.reset = .next (rejected 0x03 .illegalCmd State.reset)

/-! ### Frames -/

/-- What no command changes, whatever its end: the configuration, CTRL.IE, STATUS.WREJ, RX_CLOSED and TX_CLOSED, the request
header registers, TX_CORR_ID, ACC, the latches of ENCODE (but for ENCODE) and the environment; LASTOPC is the command's opcode, and exactly one of DONE, ERR and BUSY
results (40_issue.md R132 to R135). -/
def Obligations.EveryCommandFrame : Prop :=
  ∀ (i : Instr) (s t : State), exec i s = .next t →
    t.param = s.param ∧ t.ie = s.ie ∧ t.env = s.env ∧
    t.status.wrej = s.status.wrej ∧ t.status.rxClosed = s.status.rxClosed ∧ t.status.txClosed = s.status.txClosed ∧
    t.status.lastOpc = i.opc ∧
    t.rx.size = s.rx.size ∧ t.rx.apiKey = s.rx.apiKey ∧ t.rx.apiVersion = s.rx.apiVersion ∧ t.rx.corrId = s.rx.corrId ∧
    t.tx.corrId = s.tx.corrId ∧ t.eng.acc = s.eng.acc ∧
    (i ≠ .encode → t.eng.elen = s.eng.elen ∧ t.eng.ecid = s.eng.ecid ∧ t.eng.emsz = s.eng.emsz) ∧
    (i ≠ .getca → t.status.vnull = s.status.vnull) ∧
    ((t.busy = true ∧ t.status.done = false ∧ t.status.err = false) ∨
     (t.busy = false ∧ t.status.done = true ∧ t.status.err = false) ∨
     (t.busy = false ∧ t.status.done = false ∧ t.status.err = true))

/-- The frame of the commands that store nothing, DECODE, ENCODE, RXSEEK, TXSEEK and the GETs: every byte of memory reads as
before, and each changes only its own registers (R150, R160, R181, R211, R212). -/
def Obligations.NonStoringFrame : Prop :=
  ∀ (s t : State) (off : Half),
    (exec .decode s = .next t → (∀ a, t.byteAt a = s.byteAt a) ∧ t.value = s.value ∧ t.tx = s.tx) ∧
    (exec .encode s = .next t → (∀ a, t.byteAt a = s.byteAt a) ∧ t.value = s.value ∧ t.rx = s.rx ∧ t.tx.len = s.tx.len) ∧
    (exec (.rxseek off) s = .next t →
      (∀ a, t.byteAt a = s.byteAt a) ∧ t.value = s.value ∧ t.tx = s.tx ∧ t.rx.bodyLen = s.rx.bodyLen ∧
        t.rx.count = s.rx.count) ∧
    (exec (.txseek off) s = .next t →
      (∀ a, t.byteAt a = s.byteAt a) ∧ t.value = s.value ∧ t.rx = s.rx ∧ t.tx.count = s.tx.count) ∧
    (∀ i ∈ [Instr.get8, .get16, .get32, .getuv, .getca], exec i s = .next t →
      (∀ a, t.byteAt a = s.byteAt a) ∧ t.tx = s.tx ∧ t.rx.bodyLen = s.rx.bodyLen ∧ t.rx.count = s.rx.count)

/-- The frame of the eleven PUT forms: VALUE, the request registers and TX_COUNT are unchanged, and every byte outside the ones
between the old and the new cursor reads as before (42_txbuild.md R180, R182). -/
def Obligations.PutFrame : Prop :=
  ∀ (imm : Half) (s t : State), ∀ i ∈ [Instr.put8, .put8i imm, .put16, .put16i imm, .put32, .put32i imm, .putuv,
      .putuvi imm, .putca, .putcai imm, .putcan], exec i s = .next t →
    t.value = s.value ∧ t.rx = s.rx ∧ t.tx.count = s.tx.count ∧
    ∀ a, ¬ (txBase + s.tx.len.toNat ≤ a ∧ a < txBase + t.tx.len.toNat) → t.byteAt a = s.byteAt a

/-! ### The response-body commands -/

/-- TXSEEK (42_txbuild.md R181): its word; TX_LEN takes `off`, or BUF_FULL above TXBUF_BYTES; nothing else changes. -/
def Obligations.TxseekSetsTheCursor : Prop :=
  ∀ (s : State) (off : Half),
    encode (.txseek off) = 0x09000000 ||| off.setWidth 32 ∧
    (off.toNat ≤ s.param.txBytes → ∃ t, exec (.txseek off) s = .next t ∧ t.tx.len.toNat = off.toNat ∧
      t = { s with
        tx := { s.tx with len := t.tx.len }, status := doneStatus 0x09 s, eng := { s.eng with eop := .idle } }) ∧
    (s.param.txBytes < off.toNat → exec (.txseek off) s = .next (rejected 0x09 .bufFull s))

/-- PUT8 and PUT8I (42_txbuild.md R183): their words; they append `v[7:0]` of VALUE and of the immediate, or end with BUF_FULL. -/
def Obligations.Put8AppendsOneByte : Prop :=
  ∀ (s : State) (imm : Half),
    encode .put8 = 0x10000000 ∧ (imm.toNat < 256 → encode (.put8i imm) = 0x10800000 ||| imm.setWidth 32) ∧
    AppendsOrFull .put8 0x10 [s.value.extractLsb' 0 8] s ∧ AppendsOrFull (.put8i imm) 0x10 [imm.extractLsb' 0 8] s

/-- PUT16 and PUT16I (42_txbuild.md R184): their words; they append `be_bytes_2(v[15:0])`, or end with BUF_FULL. -/
def Obligations.Put16AppendsBigEndian : Prop :=
  ∀ (s : State) (imm : Half),
    encode .put16 = 0x11000000 ∧ encode (.put16i imm) = 0x11800000 ||| imm.setWidth 32 ∧
    AppendsOrFull .put16 0x11 [s.value.extractLsb' 8 8, s.value.extractLsb' 0 8] s ∧
    AppendsOrFull (.put16i imm) 0x11 [imm.extractLsb' 8 8, imm.extractLsb' 0 8] s

/-- PUT32 and PUT32I (42_txbuild.md R185): their words; they append `be_bytes_4(v)`, the immediate zero-extended, or end with
BUF_FULL. -/
def Obligations.Put32AppendsBigEndian : Prop :=
  ∀ (s : State) (imm : Half),
    encode .put32 = 0x12000000 ∧ encode (.put32i imm) = 0x12800000 ||| imm.setWidth 32 ∧
    AppendsOrFull .put32 0x12 [s.value.extractLsb' 24 8, s.value.extractLsb' 16 8, s.value.extractLsb' 8 8,
      s.value.extractLsb' 0 8] s ∧
    AppendsOrFull (.put32i imm) 0x12 [0, 0, imm.extractLsb' 8 8, imm.extractLsb' 0 8] s

/-- PUTUV and PUTUVI (42_txbuild.md R186): their words; they append `uv_bytes(uint32(v))`, or end with BUF_FULL with not even a
prefix written. What `uvBytes` is, UvBytesShortestForm says. -/
def Obligations.PutuvAppendsVarint : Prop :=
  ∀ (s : State) (imm : Half),
    encode .putuv = 0x13000000 ∧ encode (.putuvi imm) = 0x13800000 ||| imm.setWidth 32 ∧
    AppendsOrFull .putuv 0x13 (uvBytes s.value) s ∧ AppendsOrFull (.putuvi imm) 0x13 (uvBytes (imm.setWidth 32)) s

/-- PUTCA, PUTCAI and PUTCAN (42_txbuild.md R187): their words; they append `uv_bytes(v + 1)`, or `00` for an absent array, or
end with BUF_FULL; a count of 0xFFFF_FFFF is VARINT_OVERFLOW, whether or not there is room. -/
def Obligations.PutcaAppendsLength : Prop :=
  ∀ (s : State) (imm : Half),
    encode .putca = 0x14000000 ∧ encode (.putcai imm) = 0x14800000 ||| imm.setWidth 32 ∧ encode .putcan = 0x14400000 ∧
    (s.value = 0xFFFFFFFF#32 → exec .putca s = .next (rejected 0x14 .varintOverflow s)) ∧
    (s.value ≠ 0xFFFFFFFF#32 → AppendsOrFull .putca 0x14 (uvBytes (BitVec.ofNat 32 (s.value.toNat + 1))) s) ∧
    AppendsOrFull (.putcai imm) 0x14 (uvBytes (BitVec.ofNat 32 (imm.toNat + 1))) s ∧
    AppendsOrFull .putcan 0x14 [0x00] s

/-- `uv_bytes` (30_encoding.md R104, R105): a varint of the length R105 gives, whose value is `u`, and the shortest one. -/
def Obligations.UvBytesShortestForm : Prop :=
  ∀ u : Word,
    (uvBytes u).length = (if u.toNat ≤ 127 then 1 else if u.toNat ≤ 16383 then 2 else if u.toNat ≤ 2097151 then 3
      else if u.toNat ≤ 268435455 then 4 else 5) ∧
    VarintAt (fun j => (uvBytes u).getD j 0) 0 (uvBytes u).length ∧
    varintValue (fun j => (uvBytes u).getD j 0) 0 (uvBytes u).length = u.toNat

/-! ### The request-body commands -/

/-- RXSEEK (43_rxread.md R211): its word; RX_POS takes `off`, or END_OF_DATA above RX_BODY_LEN; nothing else changes. -/
def Obligations.RxseekSetsTheCursor : Prop :=
  ∀ (s : State) (off : Half),
    encode (.rxseek off) = 0x08000000 ||| off.setWidth 32 ∧
    (off.toNat ≤ s.rx.bodyLen.toNat → ∃ t, exec (.rxseek off) s = .next t ∧ t.rx.pos.toNat = off.toNat ∧
      t = { s with
        rx := { s.rx with pos := t.rx.pos }, status := doneStatus 0x08 s, eng := { s.eng with eop := .idle } }) ∧
    (s.rx.bodyLen.toNat < off.toNat → exec (.rxseek off) s = .next (rejected 0x08 .endOfData s))

/-- GET8 (43_rxread.md R213): its word; VALUE takes one byte, zero-extended, or END_OF_DATA. RX_BODY_LEN is in its
range (R50, R58). -/
def Obligations.Get8ReadsZeroExtended : Prop :=
  encode .get8 = 0x20000000 ∧
  ∀ s : State, s.rx.bodyLen.toNat ≤ s.param.rxBytes →
    ReadsOrEnds .get8 0x20 1 ((s.rxByte s.rx.pos.toNat).setWidth 32) s

/-- GET16 (43_rxread.md R214): its word; VALUE takes two bytes big-endian, sign-extended, or END_OF_DATA. RX_BODY_LEN is in its
range (R50, R58). -/
def Obligations.Get16ReadsSignExtended : Prop :=
  encode .get16 = 0x21000000 ∧
  ∀ s : State, s.rx.bodyLen.toNat ≤ s.param.rxBytes →
    ReadsOrEnds .get16 0x21 2 ((s.rxByte s.rx.pos.toNat ++ s.rxByte (s.rx.pos.toNat + 1)).signExtend 32) s

/-- GET32 (43_rxread.md R215): its word; VALUE takes four bytes big-endian, or END_OF_DATA. RX_BODY_LEN is in its
range (R50, R58). -/
def Obligations.Get32ReadsBigEndian : Prop :=
  encode .get32 = 0x22000000 ∧
  ∀ s : State, s.rx.bodyLen.toNat ≤ s.param.rxBytes →
    ReadsOrEnds .get32 0x22 4 (s.rxByte s.rx.pos.toNat ++ s.rxByte (s.rx.pos.toNat + 1) ++ s.rxByte (s.rx.pos.toNat + 2) ++
      s.rxByte (s.rx.pos.toNat + 3)) s

/-- GETUV (43_rxread.md R216; 30_encoding.md R108): its word; VALUE takes the varint at the cursor, or END_OF_DATA or
VARINT_OVERFLOW. RX_BODY_LEN is in its range (R50, R58). -/
def Obligations.GetuvReadsVarint : Prop :=
  encode .getuv = 0x23000000 ∧
  ∀ s : State, s.rx.bodyLen.toNat ≤ s.param.rxBytes →
    VarintEnds .getuv 0x23 (fun n u t => Reads 0x23 n u s t) s

/-- GETCA (43_rxread.md R217; 30_encoding.md R108): its word; a prefix 0 sets VNULL and gives 0, another one clears VNULL and gives the prefix less 1; on an error
VNULL is unchanged. RX_BODY_LEN is in its range (R50, R58). -/
def Obligations.GetcaReadsLength : Prop :=
  encode .getca = 0x24000000 ∧
  ∀ s : State, s.rx.bodyLen.toNat ≤ s.param.rxBytes →
    VarintEnds .getca 0x24 (fun n u t =>
      t.rx.pos.toNat = s.rx.pos.toNat + n ∧ (∀ a, t.byteAt a = s.byteAt a) ∧
      t = { s with
        value := if u = 0 then 0 else u - 1
        rx := { s.rx with pos := t.rx.pos }
        status := { doneStatus 0x24 s with vnull := decide (u = 0) }
        eng := { s.eng with eop := .idle } }) s

/-- Where a GET stops: only in a state whose RX_BODY_LEN exceeds RXBUF_BYTES, which R58 excludes and in which no rule may
index the buffer (R74; the stop is the model's, log 7). -/
def Obligations.GetStopsOnlyBeyondTheBuffer : Prop :=
  ∀ (s : State), ∀ i ∈ [Instr.get8, .get16, .get32, .getuv, .getca],
    (exec i s = .fault .rxIndex ↔ s.param.rxBytes < s.rx.bodyLen.toNat) ∧
    (s.rx.bodyLen.toNat ≤ s.param.rxBytes → ∃ t, exec i s = .next t)

/-- The varint inverse law (43_rxread.md R219): decoding a body that holds `uv_bytes(u)` gives `u` and its length; and GETCA
on the bytes that a PUTCA of N, or a PUTCAN, appended gives VALUE = N with VNULL = 0, or VNULL = 1. -/
def Obligations.VarintInverseLaw : Prop :=
  (∀ (u : Word) (read : Nat → Byte) (p len : Nat), p + (uvBytes u).length ≤ len →
    (∀ j, j < (uvBytes u).length → read (p + j) = (uvBytes u).getD j 0) →
    uvDecode read p len = .ok (u, (uvBytes u).length)) ∧
  (∀ (i : Instr) (s t r : State) (n : Nat), i = .putca ∨ i = .putcan →
    exec i s = .next t → t.status.done = true → t.tx.len.toNat = s.tx.len.toNat + n →
    r.rx.bodyLen.toNat ≤ r.param.rxBytes → r.rx.pos.toNat + n ≤ r.rx.bodyLen.toNat →
    (∀ j, j < n → r.rxByte (r.rx.pos.toNat + j) = t.txByte (s.tx.len.toNat + j)) →
    ∃ q, exec .getca r = .next q ∧ q.rx.pos.toNat = r.rx.pos.toNat + n ∧
      (i = .putca → q.status.vnull = false ∧ q.value = s.value) ∧ (i = .putcan → q.status.vnull = true))

/-! ### DECODE -/

/-- The issue of a DECODE (R150, R151): it clears RX_COUNT, RX_BODY_LEN and RX_POS and sets BUSY, and consumes nothing; on a
closed channel it ends with RX_CLOSED_ERR and changes nothing else. -/
def Obligations.DecodeIssue : Prop :=
  ∀ s : State,
    (s.status.rxClosed = false → exec .decode s = .next { s with
      status := { s.status with done := false, err := false, errCode := .noError, lastOpc := 0x01 }
      rx := { s.rx with count := 0, bodyLen := 0, pos := 0 }
      eng := { s.eng with eop := .dec } }) ∧
    (s.status.rxClosed = true → exec .decode s = .next (rejected 0x01 .rxClosedErr s))

/-- A held command, and an idle block, has no ENGINE step (R152, R162, R276): nothing changes. -/
def Obligations.HeldCommandWaits : Prop :=
  ∀ s : State,
    (s.eng.eop = .idle → runTurn .engine s = .next s) ∧
    (s.eng.eop = .dec → s.env.rxPending = [] → runTurn .engine s = .next s) ∧
    (s.eng.eop = .enc → s.env.txReady = none → runTurn .engine s = .next s)

/-- A DECODE that consumes `Eos` or `Err` (R157, R158): END_OF_STREAM before frame byte 0, TRUNCATED_FRAME after it,
RX_READ_FAIL for a read error at any point; the RX channel closes and nothing else changes. -/
def Obligations.DecodeEndsOnStreamEnd : Prop :=
  ∀ (s : State) (e : RxEvent) (rest : List RxEvent), s.eng.eop = .dec → s.env.rxPending = e :: rest → e.isEnd = true →
    runTurn .engine s = .next { s with
      env := { s.env with rxPending := rest }
      eng := { s.eng with eop := .idle }
      status := { s.status with
        err := true
        rxClosed := true
        errCode := if e = .err then .rxReadFail else if s.rx.count.toNat = 0 then .endOfStream else .truncatedFrame } }

/-- Length validation at frame byte 3 (R153): RX_SIZE is written first; below 8 is MALFORMED_HEADER, a body larger than RXBUF
is FRAME_TOO_LARGE, both close the channel with RX_COUNT = 4; else the DECODE goes on. -/
def Obligations.DecodeValidatesSize : Prop :=
  ∀ (s : State) (b : Byte) (rest : List RxEvent), s.eng.eop = .dec → s.env.rxPending = .byte b :: rest →
    s.rx.count = 3 →
    let size : Word := s.eng.acc * 256#32 + b.setWidth 32
    let t := { s with
      env := { s.env with rxPending := rest }, rx := { s.rx with count := 4, size := size }, eng := { s.eng with acc := size } }
    (size.toInt < 8 → runTurn .engine s = .next (t.failRx .malformedHeader)) ∧
    (8 ≤ size.toInt → (s.param.rxBytes : Int) < size.toInt - 8 → runTurn .engine s = .next (t.failRx .frameTooLarge)) ∧
    (8 ≤ size.toInt → size.toInt - 8 ≤ s.param.rxBytes → runTurn .engine s = .next t)

/-- Header bytes (R154, R150): the ENGINE step that consumes frame byte 0 to 2 or 4 to 11 counts it and shifts it into ACC; byte 5,
7 or 11 completes RX_API_KEY, RX_API_VERSION (both read sign-extended) or RX_CORR_ID, big-endian with that byte lowest; nothing
else changes. Byte 3 is DecodeValidatesSize, and byte 11 of an empty body DecodeSucceedsOnLastByte. -/
def Obligations.DecodeUnpacksHeader : Prop :=
  ∀ (s : State) (b : Byte) (rest : List RxEvent), s.eng.eop = .dec → s.env.rxPending = .byte b :: rest →
    s.rx.count.toNat < 12 → s.rx.count.toNat ≠ 3 → (s.rx.count.toNat = 11 → s.rx.size.toInt ≠ 8) →
    let k := s.rx.count.toNat
    let field16 : Half := s.eng.acc.extractLsb' 0 8 ++ b
    let field32 : Word := s.eng.acc.extractLsb' 0 24 ++ b
    ∃ t, runTurn .engine s = .next t ∧
      t = { s with
        env := { s.env with rxPending := rest }
        rx := { s.rx with
          count := s.rx.count + 1
          apiKey := if k = 5 then field16 else s.rx.apiKey
          apiVersion := if k = 7 then field16 else s.rx.apiVersion
          corrId := if k = 11 then field32 else s.rx.corrId }
        eng := { s.eng with acc := field32 } } ∧
      t.rx.count.toNat = k + 1 ∧ t.busy = true ∧
      (k = 5 → t.readReg .rxApiKey = field16.signExtend 32) ∧
      (k = 7 → t.readReg .rxApiVersion = field16.signExtend 32) ∧
      (k = 11 → t.readReg .rxCorrId = field32)

/-- A body byte (R152): frame byte `k >= 12` goes to RXBUF[k - 12] and to no other byte, one event is consumed, and until the last
byte nothing else changes but RX_COUNT: the DECODE stays BUSY. -/
def Obligations.DecodeStoresBodyByte : Prop :=
  ∀ (s : State) (b : Byte) (rest : List RxEvent), s.eng.eop = .dec → s.env.rxPending = .byte b :: rest →
    12 ≤ s.rx.count.toNat → s.rx.count.toNat - 12 < s.param.rxBytes →
    ∃ t, runTurn .engine s = .next t ∧ t.rxByte (s.rx.count.toNat - 12) = b ∧
      (∀ a, a ≠ rxBase + (s.rx.count.toNat - 12) → t.byteAt a = s.byteAt a) ∧
      t.rx.count.toNat = s.rx.count.toNat + 1 ∧ t.env = { s.env with rxPending := rest } ∧
      t.param = s.param ∧ t.ie = s.ie ∧
      t.value = s.value ∧ t.tx.count = s.tx.count ∧ t.rx.size = s.rx.size ∧ t.rx.apiKey = s.rx.apiKey ∧
      t.rx.apiVersion = s.rx.apiVersion ∧ t.rx.corrId = s.rx.corrId ∧
      ((s.rx.count.toNat : Int) + 1 ≠ 4 + s.rx.size.toInt →
        t = { s with env := { s.env with rxPending := rest }, rx := { s.rx with count := t.rx.count }, mem := t.mem })

/-- DECODE success (R155, R150): the step that consumes the last frame byte, of an empty body or of one that fits, sets
RX_BODY_LEN = declaredSize - 8, RX_POS = 0, RX_COUNT = 4 + declaredSize, TX_LEN = 0, TX_CORR_ID = RX_CORR_ID and DONE, and
consumes no event after that byte. With an empty body that byte completes RX_CORR_ID and no byte of memory changes; else it is
stored in RXBUF and RX_CORR_ID is kept. Nothing else changes. -/
def Obligations.DecodeSucceedsOnLastByte : Prop :=
  ∀ (s : State) (b : Byte) (rest : List RxEvent), s.eng.eop = .dec → s.env.rxPending = .byte b :: rest →
    11 ≤ s.rx.count.toNat → (s.rx.count.toNat : Int) + 1 = 4 + s.rx.size.toInt →
    s.rx.size.toInt - 8 ≤ s.param.rxBytes →
    let k := s.rx.count.toNat
    let field32 : Word := s.eng.acc.extractLsb' 0 24 ++ b
    ∃ t, runTurn .engine s = .next t ∧ (t.rx.bodyLen.toNat : Int) = s.rx.size.toInt - 8 ∧
      (t.rx.count.toNat : Int) = 4 + s.rx.size.toInt ∧ t.tx.corrId = t.rx.corrId ∧ t.busy = false ∧
      (12 ≤ k → t.rxByte (k - 12) = b) ∧
      (∀ a, ¬ (12 ≤ k ∧ a = rxBase + (k - 12)) → t.byteAt a = s.byteAt a) ∧
      t = { s with
        env := { s.env with rxPending := rest }
        rx := { s.rx with
          count := t.rx.count
          bodyLen := t.rx.bodyLen
          pos := 0
          corrId := if k = 11 then field32 else s.rx.corrId }
        tx := { s.tx with len := 0, corrId := t.rx.corrId }
        status := { s.status with done := true }
        eng := { s.eng with eop := .idle, acc := if k = 11 then field32 else s.eng.acc }
        mem := t.mem }

/-- The whole of a DECODE (R155, R100): issued on an open channel with a frame offered whose body fits, it ends after one step a
byte with DONE, the header unpacked, the body in RXBUF, the correlation id echoed, and the events after the frame left. -/
def Obligations.DecodeReceivesTheFrame : Prop :=
  ∀ (s : State) (apiKey apiVersion : Half) (corrId : Word) (body : List Byte) (rest : List RxEvent) (later : List Turn),
    s.busy = false → s.status.rxClosed = false → body.length ≤ s.param.rxBytes →
    s.env.rxPending = (requestFrame apiKey apiVersion corrId body).map RxEvent.byte ++ rest →
    s.env.agenda = .host (.write 0x010 .four 0x01000000) :: (List.replicate (12 + body.length) .engine ++ later) →
    ∃ t, Host.Core.run Sys2Proof.core (13 + body.length) s = .next t ∧
      t.busy = false ∧ t.status.done = true ∧ t.status.err = false ∧ t.status.rxClosed = false ∧
      t.rx.size = BitVec.ofNat 32 (8 + body.length) ∧ t.rx.apiKey = apiKey ∧ t.rx.apiVersion = apiVersion ∧
      t.rx.corrId = corrId ∧ t.rx.bodyLen.toNat = body.length ∧ t.rx.pos = 0 ∧ t.rx.count.toNat = 12 + body.length ∧
      t.tx.corrId = corrId ∧ t.tx.len = 0 ∧ (∀ j, j < body.length → t.rxByte j = body.getD j 0) ∧
      t.env.rxPending = rest ∧ t.env.agenda = later

/-- A stream shorter than its frame (R157): a DECODE of a proper, non-empty prefix of a frame that fits, followed by `Eos`, ends
with TRUNCATED_FRAME, the channel closed, RX_COUNT the bytes consumed and RX_BODY_LEN 0. -/
def Obligations.DecodeOfShortStreamIsTruncated : Prop :=
  ∀ (s : State) (apiKey apiVersion : Half) (corrId : Word) (body : List Byte) (rest : List RxEvent) (later : List Turn)
    (k : Nat),
    s.busy = false → s.status.rxClosed = false → body.length ≤ s.param.rxBytes → 1 ≤ k → k < 12 + body.length →
    s.env.rxPending = ((requestFrame apiKey apiVersion corrId body).take k).map RxEvent.byte ++ .eos :: rest →
    s.env.agenda = .host (.write 0x010 .four 0x01000000) :: (List.replicate (k + 1) .engine ++ later) →
    ∃ t, Host.Core.run Sys2Proof.core (k + 2) s = .next t ∧ t.busy = false ∧ t.status.done = false ∧
      t.status.err = true ∧ t.status.errCode = .truncatedFrame ∧ t.status.rxClosed = true ∧ t.rx.count.toNat = k ∧
      t.rx.bodyLen = 0 ∧ t.tx.len = s.tx.len ∧ t.tx.corrId = s.tx.corrId ∧ t.env.rxPending = rest

/-! ### ENCODE -/

/-- The issue of an ENCODE (R160, R161): TX_LEN and TX_CORR_ID are latched, EMSZ = 4 + TX_LEN without overflow, TX_COUNT is
cleared and BUSY set; on a closed channel it ends with TX_CLOSED_ERR and changes nothing else. -/
def Obligations.EncodeIssue : Prop :=
  ∀ s : State,
    (s.status.txClosed = false → ∃ t, exec .encode s = .next t ∧
      t = { s with
        status := { s.status with done := false, err := false, errCode := .noError, lastOpc := 0x02 }
        tx := { s.tx with count := 0 }
        eng := { s.eng with eop := .enc, elen := s.tx.len, ecid := s.tx.corrId, emsz := t.eng.emsz } } ∧
      t.eng.emsz.toNat = 4 + s.tx.len.toNat ∧
      (s.tx.len.toNat ≤ s.param.txBytes → t.eng.emsz.toNat ≤ 65540 ∧ 4 ≤ t.eng.emsz.toInt)) ∧
    (s.status.txClosed = true → exec .encode s = .next (rejected 0x02 .txClosedErr s))

/-- An accepted byte (R162): the ENGINE step offers frame byte TX_COUNT, `Ok` delivers it after every byte before it and advances
TX_COUNT; the byte that makes `8 + ELEN` completes the command, else it stays BUSY; nothing else changes. -/
def Obligations.EncodeSendsNextByte : Prop :=
  ∀ s : State, s.eng.eop = .enc → s.env.txReady = some .ok → s.tx.count.toNat < 8 + s.eng.elen.toNat →
    s.eng.elen.toNat ≤ s.param.txBytes →
    ∃ (t : State) (b : Byte), runTurn .engine s = .next t ∧
      (be4 s.eng.emsz ++ be4 s.eng.ecid ++ s.txBytesAt 0 s.eng.elen.toNat)[s.tx.count.toNat]? = some b ∧
      t.tx.count.toNat = s.tx.count.toNat + 1 ∧
      t = { s with
        env := { s.env with txReady := none, txSent := s.env.txSent ++ [b] }
        tx := { s.tx with count := t.tx.count }
        status := { s.status with done := if s.tx.count.toNat + 1 = 8 + s.eng.elen.toNat then true else s.status.done }
        eng := { s.eng with eop := if s.tx.count.toNat + 1 = 8 + s.eng.elen.toNat then .idle else .enc } }

/-- A write failure (R163): `Err` ends the ENCODE with TX_WRITE_FAIL and closes the TX channel; the byte is not delivered and
TX_COUNT stays the number of bytes accepted. -/
def Obligations.EncodeEndsOnWriteFailure : Prop :=
  ∀ s : State, s.eng.eop = .enc → s.env.txReady = some .err → s.tx.count.toNat < 8 + s.eng.elen.toNat →
    s.eng.elen.toNat ≤ s.param.txBytes →
    runTurn .engine s = .next { s with
      env := { s.env with txReady := none }
      eng := { s.eng with eop := .idle }
      status := { s.status with err := true, errCode := .txWriteFail, txClosed := true } }

/-- The whole of an ENCODE (R160, R101): issued on an open channel, with TXSINK answering `Ok` to every byte, it sends exactly
`be_bytes_4(4 + TX_LEN)`, the correlation id and the body TXBUF[0 .. TX_LEN-1], and ends with DONE and TX_COUNT = 8 + TX_LEN;
TX_LEN, TX_CORR_ID and the buffers are unchanged. -/
def Obligations.EncodeSendsTheFrame : Prop :=
  ∀ (s : State) (later : List Turn),
    s.busy = false → s.status.txClosed = false → s.tx.len.toNat ≤ s.param.txBytes →
    s.env.agenda = .host (.write 0x010 .four 0x02000000) ::
      ((List.replicate (8 + s.tx.len.toNat) [Turn.txsink .ok, .engine]).flatten ++ later) →
    ∃ t, Host.Core.run Sys2Proof.core (1 + 2 * (8 + s.tx.len.toNat)) s = .next t ∧
      t.env.txSent = s.env.txSent ++ responseFrame s.tx.corrId (s.txBytesAt 0 s.tx.len.toNat) ∧
      t.busy = false ∧ t.status.done = true ∧ t.status.err = false ∧ t.tx.count.toNat = 8 + s.tx.len.toNat ∧
      t.tx.len = s.tx.len ∧ t.tx.corrId = s.tx.corrId ∧ (∀ a, t.byteAt a = s.byteAt a) ∧ t.env.agenda = later

/-! ### The host register port -/

/-- A host read (20_memory.md R76): it changes no state of the block and answers what `hostRead` gives. -/
def Obligations.HostReadHasNoSideEffect : Prop :=
  ∀ (s : State) (addr : Addr) (n : Width), ∃ t, runTurn (.host (.read addr n)) s = .next t ∧ SameBlock s t ∧
    t.env = { s.env with hostResp := some (s.hostRead addr n) }

/-- The register map and what each register reads as (10_state.md R26, R29, R31, R32, R44, R47, R48). -/
def Obligations.RegistersReadAtTheirOffsets : Prop :=
  ∀ s : State,
    s.hostRead 0x000 .four = .okRead 0x4B464331 ∧
    s.hostRead 0x004 .four = .okRead (BitVec.ofNat 32 (s.param.txLog2.val * 256 + s.param.rxLog2.val)) ∧
    s.hostRead 0x008 .four = .okRead (if s.ie then 4 else 0) ∧
    s.hostRead 0x00C .four = .okRead s.statusWord ∧
    s.hostRead 0x010 .four = .okRead 0 ∧
    s.hostRead 0x014 .four = .okRead s.value ∧
    s.hostRead 0x018 .four = .okRead s.rx.size ∧
    s.hostRead 0x01C .four = .okRead (s.rx.apiKey.signExtend 32) ∧
    s.hostRead 0x020 .four = .okRead (s.rx.apiVersion.signExtend 32) ∧
    s.hostRead 0x024 .four = .okRead s.rx.corrId ∧
    s.hostRead 0x028 .four = .okRead (s.rx.bodyLen.setWidth 32) ∧
    s.hostRead 0x02C .four = .okRead (s.rx.pos.setWidth 32) ∧
    s.hostRead 0x030 .four = .okRead (s.rx.count.setWidth 32) ∧
    s.hostRead 0x034 .four = .okRead s.tx.corrId ∧
    s.hostRead 0x038 .four = .okRead (s.tx.len.setWidth 32) ∧
    s.hostRead 0x03C .four = .okRead (s.tx.count.setWidth 32)

/-- The fields of the STATUS word (10_state.md R34, R35, R42; 60_exceptions.md R250), and the number of each error in ERRCODE as the
table of 60_exceptions.md R240 gives it. -/
def Obligations.StatusWordFields : Prop :=
  ∀ s : State,
    (s.statusWord.getLsbD 0 = true ↔ s.eng.eop ≠ .idle) ∧ s.statusWord.getLsbD 1 = s.status.done ∧
    s.statusWord.getLsbD 2 = s.status.err ∧ s.statusWord.getLsbD 3 = s.status.wrej ∧
    s.statusWord.extractLsb' 4 4 = s.status.errCode.code ∧
    (∀ p ∈ [(ErrCode.noError, 0), (.truncatedFrame, 1), (.malformedHeader, 2), (.frameTooLarge, 3), (.endOfStream, 4),
        (.rxReadFail, 5), (.rxClosedErr, 6), (.txWriteFail, 7), (.txClosedErr, 8), (.illegalCmd, 9), (.endOfData, 10),
        (.bufFull, 11), (.varintOverflow, 12)],
      s.status.errCode = p.1 ↔ (s.statusWord.extractLsb' 4 4).toNat = p.2) ∧
    s.statusWord.getLsbD 8 = s.status.rxClosed ∧
    s.statusWord.getLsbD 9 = s.status.txClosed ∧ s.statusWord.getLsbD 10 = s.status.vnull ∧
    s.statusWord.getLsbD 11 = (s.ie && (s.status.done || s.status.err)) ∧ s.statusWord.extractLsb' 12 4 = 0 ∧
    s.statusWord.extractLsb' 16 8 = s.status.lastOpc ∧ s.statusWord.extractLsb' 24 8 = 0

/-- Buffer window access (20_memory.md R81): inside a buffer and aligned, a read gives the bytes in big-endian lanes, and a
TXBUF write while BUSY = 0 stores them so and nothing else. -/
def Obligations.BufferWindowsAreBigEndian : Prop :=
  ∀ (s : State) (addr : Addr) (o : Nat),
    ((addr.toNat = 0x10000 + o → o + 4 ≤ s.param.rxBytes → o % 4 = 0 →
      s.hostRead addr .four = .okRead (s.rxByte o ++ s.rxByte (o + 1) ++ s.rxByte (o + 2) ++ s.rxByte (o + 3))) ∧
     (addr.toNat = 0x10000 + o → o + 2 ≤ s.param.rxBytes → o % 2 = 0 →
      s.hostRead addr .two = .okRead ((s.rxByte o ++ s.rxByte (o + 1)).setWidth 32)) ∧
     (addr.toNat = 0x10000 + o → o < s.param.rxBytes → s.hostRead addr .one = .okRead ((s.rxByte o).setWidth 32))) ∧
    ((addr.toNat = 0x20000 + o → o + 4 ≤ s.param.txBytes → o % 4 = 0 →
      s.hostRead addr .four = .okRead (s.txByte o ++ s.txByte (o + 1) ++ s.txByte (o + 2) ++ s.txByte (o + 3))) ∧
     (addr.toNat = 0x20000 + o → o + 2 ≤ s.param.txBytes → o % 2 = 0 →
      s.hostRead addr .two = .okRead ((s.txByte o ++ s.txByte (o + 1)).setWidth 32)) ∧
     (addr.toNat = 0x20000 + o → o < s.param.txBytes → s.hostRead addr .one = .okRead ((s.txByte o).setWidth 32))) ∧
    (∀ (n : Width) (v : Word), addr.toNat = 0x20000 + o → o + n.bytes ≤ s.param.txBytes → o % n.bytes = 0 →
      s.busy = false → ∃ t, runTurn (.host (.write addr n v)) s = .next t ∧
        (∀ j, j < n.bytes → t.txByte (o + j) = v.extractLsb' (8 * (n.bytes - j) - 8) 8) ∧
        (∀ a, ¬ (txBase + o ≤ a ∧ a < txBase + o + n.bytes) → t.byteAt a = s.byteAt a) ∧
        t = { s with mem := t.mem, env := { s.env with hostResp := some .okWrite } })

/-- What is a bus error (20_memory.md R79, R82, R83): an unmapped address, an access not wholly inside one buffer, a misaligned
one, a register access that is not 4 bytes at a multiple of 4, and every write to the RXBUF window. It changes no state of the
block. -/
def Obligations.BusErrorsChangeNothing : Prop :=
  ∀ (s : State) (addr : Addr) (n : Width) (v : Word),
    let a := addr.toNat
    let bad := (0x40 ≤ a ∧ a < 0x10000) ∨ 0x30000 ≤ a ∨ (a < 0x1000 ∧ (n ≠ .four ∨ a % 4 ≠ 0)) ∨
      a % n.bytes ≠ 0 ∨
      (0x10000 ≤ a ∧ a < 0x20000 ∧ s.param.rxBytes < a - 0x10000 + n.bytes) ∨
      (0x20000 ≤ a ∧ a < 0x30000 ∧ s.param.txBytes < a - 0x20000 + n.bytes)
    (bad → runTurn (.host (.read addr n)) s = .next { s with env := { s.env with hostResp := some .busErr } }) ∧
    (bad ∨ (0x10000 ≤ a ∧ a < 0x20000) →
      runTurn (.host (.write addr n v)) s = .next { s with env := { s.env with hostResp := some .busErr } })

/-- Write refusal while BUSY (20_memory.md R80): a write to CMD, VALUE, TX_CORR_ID or a mapped, aligned TXBUF place changes
nothing but WREJ and is answered OK; a write to CTRL is performed all the same, and one to an RO register is ignored as
always. -/
def Obligations.BusyWritesAreRefused : Prop :=
  ∀ (s : State) (addr : Addr) (n : Width) (v : Word), s.busy = true →
    let t := { s with env := { s.env with hostResp := some .okWrite } }
    ((n = .four ∧ (addr = 0x010 ∨ addr = 0x014 ∨ addr = 0x034)) ∨
      (0x20000 ≤ addr.toNat ∧ addr.toNat + n.bytes ≤ 0x20000 + s.param.txBytes ∧ addr.toNat % n.bytes = 0) →
      runTurn (.host (.write addr n v)) s = .next { t with status := { t.status with wrej := true } }) ∧
    (∃ u, runTurn (.host (.write 0x008 .four v)) s = .next u ∧ u.env = t.env ∧
      u.ie = (!v.getLsbD 0 && v.getLsbD 2) ∧ u.busy = !v.getLsbD 0 ∧
      u.status.wrej = (!v.getLsbD 0 && !v.getLsbD 1 && s.status.wrej)) ∧
    (addr.toNat < 0x40 → addr.toNat % 4 = 0 → addr.toNat ∉ [0x008, 0x010, 0x014, 0x034] →
      runTurn (.host (.write addr .four v)) s = .next t)

/-- Register writes while BUSY = 0 (10_state.md R27, R45, R53; 20_memory.md R78): VALUE and TX_CORR_ID take the data; a
write to a read-only register is ignored without error and without setting WREJ. -/
def Obligations.RegisterWrites : Prop :=
  ∀ (s : State) (v : Word), s.busy = false →
    let t := { s with env := { s.env with hostResp := some .okWrite } }
    runTurn (.host (.write 0x014 .four v)) s = .next { t with value := v } ∧
    runTurn (.host (.write 0x034 .four v)) s = .next { t with tx := { t.tx with corrId := v } } ∧
    (∀ addr : Addr, addr.toNat < 0x40 → addr.toNat % 4 = 0 → addr.toNat ∉ [0x008, 0x010, 0x014, 0x034] →
      runTurn (.host (.write addr .four v)) s = .next t)

/-- A write to CTRL (10_state.md R33; 60_exceptions.md R256), BUSY or not: without SRST, CLR clears DONE, ERR, ERRCODE and
WREJ and nothing else, and IE takes bit 2; with SRST the block is reset and IE ends 0. -/
def Obligations.CtrlWrite : Prop :=
  ∀ (s : State) (v : Word),
    let t := { s with env := { s.env with hostResp := some .okWrite } }
    (v.getLsbD 0 = false → v.getLsbD 1 = false →
      runTurn (.host (.write 0x008 .four v)) s = .next { t with ie := v.getLsbD 2 }) ∧
    (v.getLsbD 0 = false → v.getLsbD 1 = true →
      runTurn (.host (.write 0x008 .four v)) s = .next { t with
        ie := v.getLsbD 2
        status := { t.status with done := false, err := false, errCode := .noError, wrej := false } }) ∧
    (v.getLsbD 0 = true → ∃ u, runTurn (.host (.write 0x008 .four v)) s = .next u ∧ runTurn .reset t = .next u ∧
      u.ie = false ∧ u.ctrlWord = 0)

/-- Mixed-width access (20_memory.md R93): TXBUF offsets 0 to 3 read big-endian in every width, whatever width wrote them: a PUT16I at
TX_LEN = 0, or, while BUSY = 0, a host write of four, of two or of one byte. -/
def Obligations.MixedWidthRead : Prop :=
  ∀ s : State,
    (∀ imm : Half, s.tx.len = 0 → ∃ t, exec (.put16i imm) s = .next t ∧
      ReadsAllWidths [imm.extractLsb' 8 8, imm.extractLsb' 0 8, s.txByte 2, s.txByte 3] t) ∧
    (s.busy = false → ∀ v : Word,
      (∃ t, runTurn (.host (.write 0x20000 .four v)) s = .next t ∧ ReadsAllWidths (be4 v) t) ∧
      (∃ t, runTurn (.host (.write 0x20002 .two v)) s = .next t ∧
        ReadsAllWidths [s.txByte 0, s.txByte 1, v.extractLsb' 8 8, v.extractLsb' 0 8] t) ∧
      (∃ t, runTurn (.host (.write 0x20001 .one v)) s = .next t ∧
        ReadsAllWidths [s.txByte 0, v.extractLsb' 0 8, s.txByte 2, s.txByte 3] t))

/-! ### Reset -/

/-- Reset (10_state.md R59; 70_reset_and_hazards.md R270, R271), by RST or by CTRL.SRST, BUSY or not: every register reads its
reset value, the engine is idle and zero, IRQ is 0, and the configuration, the buffers and the streams are unchanged. -/
def Obligations.ResetLeavesResetValues : Prop :=
  ∀ s : State, ∃ t, runTurn .reset s = .next t ∧
    (∀ v : Word, v.getLsbD 0 = true →
      runTurn (.host (.write 0x008 .four v)) s = .next { t with env := { s.env with hostResp := some .okWrite } }) ∧
    (∀ r, r ≠ .id → r ≠ .param → t.readReg r = 0) ∧ t.readReg .id = 0x4B464331#32 ∧
    t.readReg .param = BitVec.ofNat 32 (s.param.txLog2.val * 256 + s.param.rxLog2.val) ∧ t.eng = ⟨.idle, 0, 0, 0, 0⟩ ∧ t.irq = false ∧ t.busy = false ∧
    t.status.rxClosed = false ∧ t.status.txClosed = false ∧
    t.param = s.param ∧ (∀ a, t.byteAt a = s.byteAt a) ∧ t.env = s.env

/-- The state after power-up (R59, R273): every register at its reset value, PARAM at the default configuration 0x0000_0C0C
(the model's choice within R5, log 2), nothing running, and every buffer byte a free value (R57, log 1). -/
def Obligations.PowerUpState : Prop :=
  (∀ r, r ≠ .id → r ≠ .param → State.reset.readReg r = 0) ∧ State.reset.readReg .id = 0x4B464331#32 ∧
  State.reset.readReg .param = 0x00000C0C#32 ∧ State.reset.busy = false ∧ State.reset.irq = false ∧
  (∀ i, State.reset.rxByte i = Config.powerUpByte (rxBase + i)) ∧
  (∀ i, State.reset.txByte i = Config.powerUpByte (txBase + i))

/-! ### The whole machine -/

/-- The invariant (10_state.md R58 with the ranges R52 and R55, the engine's and the streams' own invariants and the canonical
memory) holds after power-up. -/
def Obligations.InvariantAtReset : Prop := State.reset.Inv

/-- Every step keeps the invariant, R58 among it, from every state that meets it. -/
def Obligations.StepKeepsInvariant : Prop :=
  ∀ s t : State, s.Inv → step s = .next t → t.Inv

/-- No rule indexes a buffer out of its range (20_memory.md R74): from a state that meets the invariant a step never stops. -/
def Obligations.InvariantMakesStepsSafe : Prop :=
  ∀ s : State, s.Inv → Safe (step s)

/-- Closed channels reopen only at reset (60_exceptions.md R257; 10_state.md R39, R40). -/
def Obligations.ChannelsReopenOnlyAtReset : Prop :=
  ∀ s t : State, step s = .next t →
    (s.status.rxClosed = true → t.status.rxClosed = false → ResetsBlock s.nextTurn) ∧
    (s.status.txClosed = true → t.status.txClosed = false → ResetsBlock s.nextTurn)

/-- STATUS.WREJ is sticky (10_state.md R38): it is cleared only by CTRL.CLR and by reset, and set only by a host write while
BUSY. -/
def Obligations.WrejIsSticky : Prop :=
  ∀ s t : State, step s = .next t →
    (s.status.wrej = true → t.status.wrej = false →
      ResetsBlock s.nextTurn ∨ ∃ v : Word, s.nextTurn = .host (.write 0x008 .four v) ∧ v.getLsbD 1 = true) ∧
    (s.status.wrej = false → t.status.wrej = true → s.busy = true ∧ ∃ addr n v, s.nextTurn = .host (.write addr n v))

/-- STATUS.VNULL is written only by a GETCA and by reset (10_state.md R41). -/
def Obligations.VnullWrittenOnlyByGetca : Prop :=
  ∀ s t : State, step s = .next t → t.status.vnull ≠ s.status.vnull →
    ResetsBlock s.nextTurn ∨ (s.busy = false ∧ s.nextTurn = .host (.write 0x010 .four 0x24000000))

/-- The configuration is hard-wired (10_state.md R32): no step changes PARAM. -/
def Obligations.ConfigurationNeverChanges : Prop :=
  ∀ s t : State, step s = .next t → t.param = s.param

/-- Who writes the buffers (20_memory.md R73): a byte of the RXBUF window changes only in an ENGINE step of a DECODE, and a byte
of the TXBUF window only in a host write, all of them while BUSY = 0 (R80). -/
def Obligations.BuffersWrittenOnlyByTheirWriters : Prop :=
  ∀ (s t : State) (a : Nat), step s = .next t → t.byteAt a ≠ s.byteAt a →
    (s.nextTurn = .engine ∧ s.eng.eop = .dec ∧ rxBase ≤ a ∧ a < rxBase + s.param.rxBytes) ∨
    (s.busy = false ∧ (∃ addr n v, s.nextTurn = .host (.write addr n v)) ∧ txBase ≤ a ∧ a < txBase + s.param.txBytes)

/-- Quiescence (70_reset_and_hazards.md R276): while BUSY = 0 the block changes only by host steps or reset. -/
def Obligations.QuiescentUntilHostOrReset : Prop :=
  ∀ s t : State, s.quiescent → step s = .next t → (∀ a, s.nextTurn ≠ .host a) → s.nextTurn ≠ .reset → SameBlock s t

/-- Stream order (10_state.md R21, R22; 20_memory.md R92; 70_reset_and_hazards.md R285): an event leaves RXSRC's sequence only
in an ENGINE step of a DECODE, which takes exactly the first; the bytes TXSINK has accepted are never taken back, and an
ENGINE step of an ENCODE adds at most one. The attaching of new streams (R272, log 8) is apart. -/
def Obligations.StreamOrder : Prop :=
  ∀ s t : State, step s = .next t →
    (s.nextTurn = .engine → s.eng.eop = .dec → t.env.rxPending = s.env.rxPending.tail) ∧
    (s.nextTurn ≠ .attach → ¬ (s.nextTurn = .engine ∧ s.eng.eop = .dec) → s.env.rxPending <+: t.env.rxPending) ∧
    (s.nextTurn ≠ .attach →
      t.env.txSent = s.env.txSent ∨
      (s.nextTurn = .engine ∧ s.eng.eop = .enc ∧ s.env.txReady = some .ok ∧ ∃ b, t.env.txSent = s.env.txSent ++ [b]))

/-! ### The assembler -/

/-- The pseudo-commands and their words (30_encoding.md R118): each assembles to its expansion; a line `PUTI16` with any literal
in -32768 .. 32767 assembles to PUT16I of it modulo 65536, and with any other literal to an error, not to a truncation (R117). -/
def Obligations.PseudoCommandWords : Prop :=
  (∀ p ∈ [("TXCLR", "TXSEEK 0", (0x09000000 : Word)), ("RXREWIND", "RXSEEK 0", 0x08000000),
      ("PUTTAG", "PUTUVI 0", 0x13800000), ("PUTEMPTYCA", "PUTCAI 0", 0x14800000)],
    ∃ i, assemble p.1.toList = .ok (some i) ∧ assemble p.2.1.toList = .ok (some i) ∧ encode i = p.2.2) ∧
  (∃ e, (asmEntries.find? fun e => e.mnemonic == "PUTI16".toList) = some e ∧ e ∈ asmEntries ∧
    e.mnemonic = "PUTI16".toList ∧ e.range = some (-32768, 32767) ∧
    (∀ v : Int, -32768 ≤ v → v ≤ 32767 →
      e.build v = .put16i (BitVec.ofInt 16 (v % 65536)) ∧
      encode (e.build v) = 0x11800000 ||| BitVec.ofInt 32 (v % 65536)) ∧
    ∀ (cs : List Char) (v : Int), literal cs = some v →
      (-32768 ≤ v ∧ v ≤ 32767 →
        assembleEntry e [cs] = .ok (.put16i (BitVec.ofInt 16 (v % 65536))) ∧
        assemble ("PUTI16 ".toList ++ cs) = .ok (some (.put16i (BitVec.ofInt 16 (v % 65536))))) ∧
      (¬ (-32768 ≤ v ∧ v ≤ 32767) →
        assembleEntry e [cs] = .error .outOfRange ∧ assemble ("PUTI16 ".toList ++ cs) = .error .outOfRange)) ∧
  (∀ p ∈ [("0", (0 : Int)), ("0x1F", 31), ("32767", 32767), ("32768", 32768), ("-1", -1), ("-32768", -32768),
      ("-32769", -32769)], literal p.1.toList = some p.2)
end

