-- ==== Sys2Proof/Laws/Assembler.lean ====
section
/-! SUPPORT. How the assembler splits a line into words, said once: a literal is one word, and a mnemonic with one operand is
two. -/
namespace Sys2Proof.Machine

/-- A character that stands inside a word of a line: no blank, no tab, no start of a comment. -/
def WordChar (c : Char) : Prop := c ≠ ';' ∧ c ≠ ' ' ∧ c ≠ '\t'

theorem digitValue_wordChar {base d : Nat} {c : Char} (h : digitValue base c = some d) : WordChar c := by
  refine ⟨?_, ?_, ?_⟩ <;> rintro rfl <;> simp [digitValue] at h

theorem digitsValue_wordChar {base : Nat} {cs : List Char} {acc n : Nat} (h : digitsValue base acc cs = some n) :
    ∀ c ∈ cs, WordChar c := by
  induction cs generalizing acc with
  | nil => simp
  | cons c cs ih =>
    rw [digitsValue] at h
    match hd : digitValue base c with
    | none => rw [hd] at h; cases h
    | some d =>
      rw [hd] at h
      exact List.forall_mem_cons.2 ⟨digitValue_wordChar hd, ih h⟩

theorem unsignedLiteral_word {cs : List Char} {n : Nat} (h : unsignedLiteral cs = some n) :
    cs ≠ [] ∧ ∀ c ∈ cs, WordChar c := by
  unfold unsignedLiteral at h
  split at h
  · cases h
  · cases h
  · have h0 : WordChar '0' ∧ WordChar 'x' := by unfold WordChar; decide
    exact ⟨List.cons_ne_nil _ _, List.forall_mem_cons.2 ⟨h0.1, List.forall_mem_cons.2 ⟨h0.2, digitsValue_wordChar h⟩⟩⟩
  · next hne _ _ => exact ⟨hne, digitsValue_wordChar h⟩

/-- A literal is one word of a line. -/
theorem literal_word {cs : List Char} {v : Int} (h : literal cs = some v) : cs ≠ [] ∧ ∀ c ∈ cs, WordChar c := by
  unfold literal at h
  split at h
  · obtain ⟨n, hn, -⟩ := Option.map_eq_some_iff.1 h
    have hm : WordChar '-' := by unfold WordChar; decide
    exact ⟨List.cons_ne_nil _ _, List.forall_mem_cons.2 ⟨hm, (unsignedLiteral_word hn).2⟩⟩
  · obtain ⟨n, hn, -⟩ := Option.map_eq_some_iff.1 h
    exact unsignedLiteral_word hn

/-- Two words with a blank between them are the words of the line. -/
theorem lineWords_pair {a b : List Char} (ha : a ≠ []) (hb : b ≠ []) (wa : ∀ c ∈ a, WordChar c)
    (wb : ∀ c ∈ b, WordChar c) : lineWords (a ++ ' ' :: b) = [a, b] := by
  have ht : (a ++ ' ' :: b).takeWhile (fun c => c != ';') = a ++ ' ' :: b := by
    rw [List.takeWhile_eq_self_iff]
    intro c hc
    rcases List.mem_append.1 hc with h | h
    · simpa using (wa c h).1
    · rcases List.mem_cons.1 h with rfl | h
      · decide
      · simpa using (wb c h).1
  have blank {L : List Char} (w : ∀ c ∈ L, WordChar c) : ∀ c ∈ L, (c == ' ' || c == '\t') = false := by
    intro c hc
    have := w c hc
    simp [this.2.1, this.2.2]
  rw [lineWords, ht, List.splitOnP_append_cons_of_forall_mem (blank wa) ' ' (by decide), List.splitOnP_eq_singleton (blank wb)]
  simp [ha, hb]

/-- A line of a mnemonic and a literal assembles as that mnemonic's entry with that operand. -/
theorem assemble_literal {name cs : List Char} {e : AsmEntry} {v : Int} (hn : name ≠ []) (hw : ∀ c ∈ name, WordChar c)
    (hf : (asmEntries.find? fun e => e.mnemonic == name) = some e) (h : literal cs = some v) :
    assemble (name ++ ' ' :: cs) = (assembleEntry e [cs]).map some := by
  have hl := literal_word h
  rw [assemble, lineWords_pair hn hl.1 hw hl.2]
  simp only [hf]

/-- One literal operand: the command where it is in range, an error where it is not. -/
theorem assembleEntry_literal {e : AsmEntry} {lo hi v : Int} {cs : List Char} (hr : e.range = some (lo, hi))
    (h : literal cs = some v) :
    assembleEntry e [cs] = if lo ≤ v ∧ v ≤ hi then .ok (e.build v) else .error .outOfRange := by
  simp only [assembleEntry, hr, h]

end Sys2Proof.Machine
end

