-- ==== Sys2Proof/Laws/State.lean ====
section
/-! SUPPORT. What each named update of the state leaves in each field, so that no later proof unfolds an update. -/
namespace Sys2Proof.Machine

/-! ### State.beginIssue -/

@[simp] theorem State.beginIssue_param (opc : Byte) (s : State) : (s.beginIssue opc).param = s.param := rfl
@[simp] theorem State.beginIssue_ie (opc : Byte) (s : State) : (s.beginIssue opc).ie = s.ie := rfl
@[simp] theorem State.beginIssue_status (opc : Byte) (s : State) : (s.beginIssue opc).status = { s.status with done := false, err := false, errCode := .noError, lastOpc := opc } := rfl
@[simp] theorem State.beginIssue_value (opc : Byte) (s : State) : (s.beginIssue opc).value = s.value := rfl
@[simp] theorem State.beginIssue_rx (opc : Byte) (s : State) : (s.beginIssue opc).rx = s.rx := rfl
@[simp] theorem State.beginIssue_tx (opc : Byte) (s : State) : (s.beginIssue opc).tx = s.tx := rfl
@[simp] theorem State.beginIssue_eng (opc : Byte) (s : State) : (s.beginIssue opc).eng = s.eng := rfl
@[simp] theorem State.beginIssue_mem (opc : Byte) (s : State) : (s.beginIssue opc).mem = s.mem := rfl
@[simp] theorem State.beginIssue_env (opc : Byte) (s : State) : (s.beginIssue opc).env = s.env := rfl

/-! ### State.completeOk -/

@[simp] theorem State.completeOk_param (s : State) : (s.completeOk).param = s.param := rfl
@[simp] theorem State.completeOk_ie (s : State) : (s.completeOk).ie = s.ie := rfl
@[simp] theorem State.completeOk_status (s : State) : (s.completeOk).status = { s.status with done := true } := rfl
@[simp] theorem State.completeOk_value (s : State) : (s.completeOk).value = s.value := rfl
@[simp] theorem State.completeOk_rx (s : State) : (s.completeOk).rx = s.rx := rfl
@[simp] theorem State.completeOk_tx (s : State) : (s.completeOk).tx = s.tx := rfl
@[simp] theorem State.completeOk_eng (s : State) : (s.completeOk).eng = { s.eng with eop := .idle } := rfl
@[simp] theorem State.completeOk_mem (s : State) : (s.completeOk).mem = s.mem := rfl
@[simp] theorem State.completeOk_env (s : State) : (s.completeOk).env = s.env := rfl

/-! ### State.rejectWrite -/

@[simp] theorem State.rejectWrite_param (s : State) : (s.rejectWrite).param = s.param := rfl
@[simp] theorem State.rejectWrite_ie (s : State) : (s.rejectWrite).ie = s.ie := rfl
@[simp] theorem State.rejectWrite_status (s : State) : (s.rejectWrite).status = { s.status with wrej := true } := rfl
@[simp] theorem State.rejectWrite_value (s : State) : (s.rejectWrite).value = s.value := rfl
@[simp] theorem State.rejectWrite_rx (s : State) : (s.rejectWrite).rx = s.rx := rfl
@[simp] theorem State.rejectWrite_tx (s : State) : (s.rejectWrite).tx = s.tx := rfl
@[simp] theorem State.rejectWrite_eng (s : State) : (s.rejectWrite).eng = s.eng := rfl
@[simp] theorem State.rejectWrite_mem (s : State) : (s.rejectWrite).mem = s.mem := rfl
@[simp] theorem State.rejectWrite_env (s : State) : (s.rejectWrite).env = s.env := rfl

/-! ### State.raise -/

@[simp] theorem State.raise_param (e : ErrCode) (s : State) : (s.raise e).param = s.param := rfl
@[simp] theorem State.raise_ie (e : ErrCode) (s : State) : (s.raise e).ie = s.ie := rfl
@[simp] theorem State.raise_status (e : ErrCode) (s : State) : (s.raise e).status = { s.status with err := true, errCode := e } := rfl
@[simp] theorem State.raise_value (e : ErrCode) (s : State) : (s.raise e).value = s.value := rfl
@[simp] theorem State.raise_rx (e : ErrCode) (s : State) : (s.raise e).rx = s.rx := rfl
@[simp] theorem State.raise_tx (e : ErrCode) (s : State) : (s.raise e).tx = s.tx := rfl
@[simp] theorem State.raise_eng (e : ErrCode) (s : State) : (s.raise e).eng = { s.eng with eop := .idle } := rfl
@[simp] theorem State.raise_mem (e : ErrCode) (s : State) : (s.raise e).mem = s.mem := rfl
@[simp] theorem State.raise_env (e : ErrCode) (s : State) : (s.raise e).env = s.env := rfl

/-! ### State.failRx -/

@[simp] theorem State.failRx_param (e : ErrCode) (s : State) : (s.failRx e).param = s.param := rfl
@[simp] theorem State.failRx_ie (e : ErrCode) (s : State) : (s.failRx e).ie = s.ie := rfl
@[simp] theorem State.failRx_status (e : ErrCode) (s : State) : (s.failRx e).status = { s.status with err := true, errCode := e, rxClosed := true } := rfl
@[simp] theorem State.failRx_value (e : ErrCode) (s : State) : (s.failRx e).value = s.value := rfl
@[simp] theorem State.failRx_rx (e : ErrCode) (s : State) : (s.failRx e).rx = s.rx := rfl
@[simp] theorem State.failRx_tx (e : ErrCode) (s : State) : (s.failRx e).tx = s.tx := rfl
@[simp] theorem State.failRx_eng (e : ErrCode) (s : State) : (s.failRx e).eng = { s.eng with eop := .idle } := rfl
@[simp] theorem State.failRx_mem (e : ErrCode) (s : State) : (s.failRx e).mem = s.mem := rfl
@[simp] theorem State.failRx_env (e : ErrCode) (s : State) : (s.failRx e).env = s.env := rfl

/-! ### State.failTx -/

@[simp] theorem State.failTx_param (s : State) : (s.failTx).param = s.param := rfl
@[simp] theorem State.failTx_ie (s : State) : (s.failTx).ie = s.ie := rfl
@[simp] theorem State.failTx_status (s : State) : (s.failTx).status = { s.status with err := true, errCode := .txWriteFail, txClosed := true } := rfl
@[simp] theorem State.failTx_value (s : State) : (s.failTx).value = s.value := rfl
@[simp] theorem State.failTx_rx (s : State) : (s.failTx).rx = s.rx := rfl
@[simp] theorem State.failTx_tx (s : State) : (s.failTx).tx = s.tx := rfl
@[simp] theorem State.failTx_eng (s : State) : (s.failTx).eng = { s.eng with eop := .idle } := rfl
@[simp] theorem State.failTx_mem (s : State) : (s.failTx).mem = s.mem := rfl
@[simp] theorem State.failTx_env (s : State) : (s.failTx).env = s.env := rfl

/-! ### State.clearResult -/

@[simp] theorem State.clearResult_param (s : State) : (s.clearResult).param = s.param := rfl
@[simp] theorem State.clearResult_ie (s : State) : (s.clearResult).ie = s.ie := rfl
@[simp] theorem State.clearResult_status (s : State) : (s.clearResult).status = { s.status with done := false, err := false, errCode := .noError, wrej := false } := rfl
@[simp] theorem State.clearResult_value (s : State) : (s.clearResult).value = s.value := rfl
@[simp] theorem State.clearResult_rx (s : State) : (s.clearResult).rx = s.rx := rfl
@[simp] theorem State.clearResult_tx (s : State) : (s.clearResult).tx = s.tx := rfl
@[simp] theorem State.clearResult_eng (s : State) : (s.clearResult).eng = s.eng := rfl
@[simp] theorem State.clearResult_mem (s : State) : (s.clearResult).mem = s.mem := rfl
@[simp] theorem State.clearResult_env (s : State) : (s.clearResult).env = s.env := rfl

/-! ### State.resetBlock -/

@[simp] theorem State.resetBlock_param (s : State) : (s.resetBlock).param = s.param := rfl
@[simp] theorem State.resetBlock_ie (s : State) : (s.resetBlock).ie = false := rfl
@[simp] theorem State.resetBlock_status (s : State) : (s.resetBlock).status = .reset := rfl
@[simp] theorem State.resetBlock_value (s : State) : (s.resetBlock).value = 0 := rfl
@[simp] theorem State.resetBlock_rx (s : State) : (s.resetBlock).rx = .reset := rfl
@[simp] theorem State.resetBlock_tx (s : State) : (s.resetBlock).tx = .reset := rfl
@[simp] theorem State.resetBlock_eng (s : State) : (s.resetBlock).eng = .reset := rfl
@[simp] theorem State.resetBlock_mem (s : State) : (s.resetBlock).mem = s.mem := rfl
@[simp] theorem State.resetBlock_env (s : State) : (s.resetBlock).env = s.env := rfl

/-! ### State.setRxByte -/

@[simp] theorem State.setRxByte_param (i : Nat) (b : Byte) (s : State) : (s.setRxByte i b).param = s.param := rfl
@[simp] theorem State.setRxByte_ie (i : Nat) (b : Byte) (s : State) : (s.setRxByte i b).ie = s.ie := rfl
@[simp] theorem State.setRxByte_status (i : Nat) (b : Byte) (s : State) : (s.setRxByte i b).status = s.status := rfl
@[simp] theorem State.setRxByte_value (i : Nat) (b : Byte) (s : State) : (s.setRxByte i b).value = s.value := rfl
@[simp] theorem State.setRxByte_rx (i : Nat) (b : Byte) (s : State) : (s.setRxByte i b).rx = s.rx := rfl
@[simp] theorem State.setRxByte_tx (i : Nat) (b : Byte) (s : State) : (s.setRxByte i b).tx = s.tx := rfl
@[simp] theorem State.setRxByte_eng (i : Nat) (b : Byte) (s : State) : (s.setRxByte i b).eng = s.eng := rfl
@[simp] theorem State.setRxByte_mem (i : Nat) (b : Byte) (s : State) : (s.setRxByte i b).mem = Memory.write s.mem (rxBase + i) b := rfl
@[simp] theorem State.setRxByte_env (i : Nat) (b : Byte) (s : State) : (s.setRxByte i b).env = s.env := rfl

/-! ### State.setTxBytes -/

@[simp] theorem State.setTxBytes_param (i : Nat) (L : List Byte) (s : State) : (s.setTxBytes i L).param = s.param := rfl
@[simp] theorem State.setTxBytes_ie (i : Nat) (L : List Byte) (s : State) : (s.setTxBytes i L).ie = s.ie := rfl
@[simp] theorem State.setTxBytes_status (i : Nat) (L : List Byte) (s : State) : (s.setTxBytes i L).status = s.status := rfl
@[simp] theorem State.setTxBytes_value (i : Nat) (L : List Byte) (s : State) : (s.setTxBytes i L).value = s.value := rfl
@[simp] theorem State.setTxBytes_rx (i : Nat) (L : List Byte) (s : State) : (s.setTxBytes i L).rx = s.rx := rfl
@[simp] theorem State.setTxBytes_tx (i : Nat) (L : List Byte) (s : State) : (s.setTxBytes i L).tx = s.tx := rfl
@[simp] theorem State.setTxBytes_eng (i : Nat) (L : List Byte) (s : State) : (s.setTxBytes i L).eng = s.eng := rfl
@[simp] theorem State.setTxBytes_mem (i : Nat) (L : List Byte) (s : State) : (s.setTxBytes i L).mem = Memory.writeAll s.mem (txBase + i) L := rfl
@[simp] theorem State.setTxBytes_env (i : Nat) (L : List Byte) (s : State) : (s.setTxBytes i L).env = s.env := rfl

/-! ### State.advancePos -/

@[simp] theorem State.advancePos_param (n : Nat) (s : State) : (s.advancePos n).param = s.param := rfl
@[simp] theorem State.advancePos_ie (n : Nat) (s : State) : (s.advancePos n).ie = s.ie := rfl
@[simp] theorem State.advancePos_status (n : Nat) (s : State) : (s.advancePos n).status = s.status := rfl
@[simp] theorem State.advancePos_value (n : Nat) (s : State) : (s.advancePos n).value = s.value := rfl
@[simp] theorem State.advancePos_rx (n : Nat) (s : State) : (s.advancePos n).rx = { s.rx with pos := s.rx.pos + BitVec.ofNat 17 n } := rfl
@[simp] theorem State.advancePos_tx (n : Nat) (s : State) : (s.advancePos n).tx = s.tx := rfl
@[simp] theorem State.advancePos_eng (n : Nat) (s : State) : (s.advancePos n).eng = s.eng := rfl
@[simp] theorem State.advancePos_mem (n : Nat) (s : State) : (s.advancePos n).mem = s.mem := rfl
@[simp] theorem State.advancePos_env (n : Nat) (s : State) : (s.advancePos n).env = s.env := rfl

/-! ### State.setValue -/

@[simp] theorem State.setValue_param (v : Word) (s : State) : (s.setValue v).param = s.param := rfl
@[simp] theorem State.setValue_ie (v : Word) (s : State) : (s.setValue v).ie = s.ie := rfl
@[simp] theorem State.setValue_status (v : Word) (s : State) : (s.setValue v).status = s.status := rfl
@[simp] theorem State.setValue_value (v : Word) (s : State) : (s.setValue v).value = v := rfl
@[simp] theorem State.setValue_rx (v : Word) (s : State) : (s.setValue v).rx = s.rx := rfl
@[simp] theorem State.setValue_tx (v : Word) (s : State) : (s.setValue v).tx = s.tx := rfl
@[simp] theorem State.setValue_eng (v : Word) (s : State) : (s.setValue v).eng = s.eng := rfl
@[simp] theorem State.setValue_mem (v : Word) (s : State) : (s.setValue v).mem = s.mem := rfl
@[simp] theorem State.setValue_env (v : Word) (s : State) : (s.setValue v).env = s.env := rfl

/-! ### State.setVnull -/

@[simp] theorem State.setVnull_param (b : Bool) (s : State) : (s.setVnull b).param = s.param := rfl
@[simp] theorem State.setVnull_ie (b : Bool) (s : State) : (s.setVnull b).ie = s.ie := rfl
@[simp] theorem State.setVnull_status (b : Bool) (s : State) : (s.setVnull b).status = { s.status with vnull := b } := rfl
@[simp] theorem State.setVnull_value (b : Bool) (s : State) : (s.setVnull b).value = s.value := rfl
@[simp] theorem State.setVnull_rx (b : Bool) (s : State) : (s.setVnull b).rx = s.rx := rfl
@[simp] theorem State.setVnull_tx (b : Bool) (s : State) : (s.setVnull b).tx = s.tx := rfl
@[simp] theorem State.setVnull_eng (b : Bool) (s : State) : (s.setVnull b).eng = s.eng := rfl
@[simp] theorem State.setVnull_mem (b : Bool) (s : State) : (s.setVnull b).mem = s.mem := rfl
@[simp] theorem State.setVnull_env (b : Bool) (s : State) : (s.setVnull b).env = s.env := rfl

/-! ### State.startDecode -/

@[simp] theorem State.startDecode_param (s : State) : (s.startDecode).param = s.param := rfl
@[simp] theorem State.startDecode_ie (s : State) : (s.startDecode).ie = s.ie := rfl
@[simp] theorem State.startDecode_status (s : State) : (s.startDecode).status = s.status := rfl
@[simp] theorem State.startDecode_value (s : State) : (s.startDecode).value = s.value := rfl
@[simp] theorem State.startDecode_rx (s : State) : (s.startDecode).rx = { s.rx with count := 0, bodyLen := 0, pos := 0 } := rfl
@[simp] theorem State.startDecode_tx (s : State) : (s.startDecode).tx = s.tx := rfl
@[simp] theorem State.startDecode_eng (s : State) : (s.startDecode).eng = { s.eng with eop := .dec } := rfl
@[simp] theorem State.startDecode_mem (s : State) : (s.startDecode).mem = s.mem := rfl
@[simp] theorem State.startDecode_env (s : State) : (s.startDecode).env = s.env := rfl

/-! ### State.startEncode -/

@[simp] theorem State.startEncode_param (s : State) : (s.startEncode).param = s.param := rfl
@[simp] theorem State.startEncode_ie (s : State) : (s.startEncode).ie = s.ie := rfl
@[simp] theorem State.startEncode_status (s : State) : (s.startEncode).status = s.status := rfl
@[simp] theorem State.startEncode_value (s : State) : (s.startEncode).value = s.value := rfl
@[simp] theorem State.startEncode_rx (s : State) : (s.startEncode).rx = s.rx := rfl
@[simp] theorem State.startEncode_tx (s : State) : (s.startEncode).tx = { s.tx with count := 0 } := rfl
@[simp] theorem State.startEncode_eng (s : State) : (s.startEncode).eng = { s.eng with eop := .enc, elen := s.tx.len, ecid := s.tx.corrId, emsz := 4#32 + s.tx.len.setWidth 32 } := rfl
@[simp] theorem State.startEncode_mem (s : State) : (s.startEncode).mem = s.mem := rfl
@[simp] theorem State.startEncode_env (s : State) : (s.startEncode).env = s.env := rfl

/-! ### State.countByte -/

@[simp] theorem State.countByte_param (b : Byte) (s : State) : (s.countByte b).param = s.param := rfl
@[simp] theorem State.countByte_ie (b : Byte) (s : State) : (s.countByte b).ie = s.ie := rfl
@[simp] theorem State.countByte_status (b : Byte) (s : State) : (s.countByte b).status = s.status := rfl
@[simp] theorem State.countByte_value (b : Byte) (s : State) : (s.countByte b).value = s.value := rfl
@[simp] theorem State.countByte_rx (b : Byte) (s : State) : (s.countByte b).rx = { s.rx with count := s.rx.count + 1 } := rfl
@[simp] theorem State.countByte_tx (b : Byte) (s : State) : (s.countByte b).tx = s.tx := rfl
@[simp] theorem State.countByte_eng (b : Byte) (s : State) : (s.countByte b).eng = { s.eng with acc := if s.rx.count.toNat ≤ 11 then shiftIn s.eng.acc b else s.eng.acc } := rfl
@[simp] theorem State.countByte_mem (b : Byte) (s : State) : (s.countByte b).mem = s.mem := rfl
@[simp] theorem State.countByte_env (b : Byte) (s : State) : (s.countByte b).env = s.env := rfl

/-! ### State.storeField -/

@[simp] theorem State.storeField_param (k : Nat) (s : State) : (s.storeField k).param = s.param := by
  unfold State.storeField; split_ifs <;> rfl
@[simp] theorem State.storeField_ie (k : Nat) (s : State) : (s.storeField k).ie = s.ie := by
  unfold State.storeField; split_ifs <;> rfl
@[simp] theorem State.storeField_status (k : Nat) (s : State) : (s.storeField k).status = s.status := by
  unfold State.storeField; split_ifs <;> rfl
@[simp] theorem State.storeField_value (k : Nat) (s : State) : (s.storeField k).value = s.value := by
  unfold State.storeField; split_ifs <;> rfl
@[simp] theorem State.storeField_tx (k : Nat) (s : State) : (s.storeField k).tx = s.tx := by
  unfold State.storeField; split_ifs <;> rfl
@[simp] theorem State.storeField_eng (k : Nat) (s : State) : (s.storeField k).eng = s.eng := by
  unfold State.storeField; split_ifs <;> rfl
@[simp] theorem State.storeField_mem (k : Nat) (s : State) : (s.storeField k).mem = s.mem := by
  unfold State.storeField; split_ifs <;> rfl
@[simp] theorem State.storeField_env (k : Nat) (s : State) : (s.storeField k).env = s.env := by
  unfold State.storeField; split_ifs <;> rfl

/-! ### State.finishDecode -/

@[simp] theorem State.finishDecode_param (s : State) : (s.finishDecode).param = s.param := rfl
@[simp] theorem State.finishDecode_ie (s : State) : (s.finishDecode).ie = s.ie := rfl
@[simp] theorem State.finishDecode_status (s : State) : (s.finishDecode).status = { s.status with done := true } := rfl
@[simp] theorem State.finishDecode_value (s : State) : (s.finishDecode).value = s.value := rfl
@[simp] theorem State.finishDecode_rx (s : State) : (s.finishDecode).rx = { s.rx with bodyLen := (s.rx.size - 8#32).setWidth 17, pos := 0 } := rfl
@[simp] theorem State.finishDecode_tx (s : State) : (s.finishDecode).tx = { s.tx with len := 0, corrId := s.rx.corrId } := rfl
@[simp] theorem State.finishDecode_eng (s : State) : (s.finishDecode).eng = { s.eng with eop := .idle } := rfl
@[simp] theorem State.finishDecode_mem (s : State) : (s.finishDecode).mem = s.mem := rfl
@[simp] theorem State.finishDecode_env (s : State) : (s.finishDecode).env = s.env := rfl

/-! ### State.sent -/

@[simp] theorem State.sent_param (b : Byte) (s : State) : (s.sent b).param = s.param := rfl
@[simp] theorem State.sent_ie (b : Byte) (s : State) : (s.sent b).ie = s.ie := rfl
@[simp] theorem State.sent_status (b : Byte) (s : State) : (s.sent b).status = s.status := rfl
@[simp] theorem State.sent_value (b : Byte) (s : State) : (s.sent b).value = s.value := rfl
@[simp] theorem State.sent_rx (b : Byte) (s : State) : (s.sent b).rx = s.rx := rfl
@[simp] theorem State.sent_tx (b : Byte) (s : State) : (s.sent b).tx = { s.tx with count := s.tx.count + 1 } := rfl
@[simp] theorem State.sent_eng (b : Byte) (s : State) : (s.sent b).eng = s.eng := rfl
@[simp] theorem State.sent_mem (b : Byte) (s : State) : (s.sent b).mem = s.mem := rfl
@[simp] theorem State.sent_env (b : Byte) (s : State) : (s.sent b).env = { s.env with txSent := s.env.txSent ++ [b] } := rfl

/-! ### State.respond -/

@[simp] theorem State.respond_param (r : HostResp) (s : State) : (s.respond r).param = s.param := rfl
@[simp] theorem State.respond_ie (r : HostResp) (s : State) : (s.respond r).ie = s.ie := rfl
@[simp] theorem State.respond_status (r : HostResp) (s : State) : (s.respond r).status = s.status := rfl
@[simp] theorem State.respond_value (r : HostResp) (s : State) : (s.respond r).value = s.value := rfl
@[simp] theorem State.respond_rx (r : HostResp) (s : State) : (s.respond r).rx = s.rx := rfl
@[simp] theorem State.respond_tx (r : HostResp) (s : State) : (s.respond r).tx = s.tx := rfl
@[simp] theorem State.respond_eng (r : HostResp) (s : State) : (s.respond r).eng = s.eng := rfl
@[simp] theorem State.respond_mem (r : HostResp) (s : State) : (s.respond r).mem = s.mem := rfl
@[simp] theorem State.respond_env (r : HostResp) (s : State) : (s.respond r).env = { s.env with hostResp := some r } := rfl

/-! ### State.storeReg -/

@[simp] theorem State.storeReg_param (r : Reg) (v : Word) (s : State) : (s.storeReg r v).param = s.param := by
  cases r <;> rfl
@[simp] theorem State.storeReg_ie (r : Reg) (v : Word) (s : State) : (s.storeReg r v).ie = s.ie := by
  cases r <;> rfl
@[simp] theorem State.storeReg_status (r : Reg) (v : Word) (s : State) : (s.storeReg r v).status = s.status := by
  cases r <;> rfl
@[simp] theorem State.storeReg_value (r : Reg) (v : Word) (s : State) : (s.storeReg r v).value = if r = .value then v else s.value := by
  cases r <;> rfl
@[simp] theorem State.storeReg_rx (r : Reg) (v : Word) (s : State) : (s.storeReg r v).rx = s.rx := by
  cases r <;> rfl
@[simp] theorem State.storeReg_tx (r : Reg) (v : Word) (s : State) : (s.storeReg r v).tx = { s.tx with corrId := if r = .txCorrId then v else s.tx.corrId } := by
  cases r <;> rfl
@[simp] theorem State.storeReg_eng (r : Reg) (v : Word) (s : State) : (s.storeReg r v).eng = s.eng := by
  cases r <;> rfl
@[simp] theorem State.storeReg_mem (r : Reg) (v : Word) (s : State) : (s.storeReg r v).mem = s.mem := by
  cases r <;> rfl
@[simp] theorem State.storeReg_env (r : Reg) (v : Word) (s : State) : (s.storeReg r v).env = s.env := by
  cases r <;> rfl

/-! ### State.writeCtrl -/

@[simp] theorem State.writeCtrl_param (v : Word) (s : State) : (s.writeCtrl v).param = s.param := by
  unfold State.writeCtrl; cases v.getLsbD 0 <;> cases v.getLsbD 1 <;> simp [State.resetBlock, State.clearResult, State.reset]
@[simp] theorem State.writeCtrl_ie (v : Word) (s : State) : (s.writeCtrl v).ie = (!v.getLsbD 0 && v.getLsbD 2) := by
  unfold State.writeCtrl; cases v.getLsbD 0 <;> cases v.getLsbD 1 <;> simp [State.resetBlock, State.clearResult, State.reset]
@[simp] theorem State.writeCtrl_status (v : Word) (s : State) : (s.writeCtrl v).status = if v.getLsbD 0 then .reset else if v.getLsbD 1 then s.clearResult.status else s.status := by
  unfold State.writeCtrl; cases v.getLsbD 0 <;> cases v.getLsbD 1 <;> simp [State.resetBlock, State.clearResult, State.reset]
@[simp] theorem State.writeCtrl_value (v : Word) (s : State) : (s.writeCtrl v).value = if v.getLsbD 0 then 0 else s.value := by
  unfold State.writeCtrl; cases v.getLsbD 0 <;> cases v.getLsbD 1 <;> simp [State.resetBlock, State.clearResult, State.reset]
@[simp] theorem State.writeCtrl_rx (v : Word) (s : State) : (s.writeCtrl v).rx = if v.getLsbD 0 then .reset else s.rx := by
  unfold State.writeCtrl; cases v.getLsbD 0 <;> cases v.getLsbD 1 <;> simp [State.resetBlock, State.clearResult, State.reset]
@[simp] theorem State.writeCtrl_tx (v : Word) (s : State) : (s.writeCtrl v).tx = if v.getLsbD 0 then .reset else s.tx := by
  unfold State.writeCtrl; cases v.getLsbD 0 <;> cases v.getLsbD 1 <;> simp [State.resetBlock, State.clearResult, State.reset]
@[simp] theorem State.writeCtrl_eng (v : Word) (s : State) : (s.writeCtrl v).eng = if v.getLsbD 0 then .reset else s.eng := by
  unfold State.writeCtrl; cases v.getLsbD 0 <;> cases v.getLsbD 1 <;> simp [State.resetBlock, State.clearResult, State.reset]
@[simp] theorem State.writeCtrl_mem (v : Word) (s : State) : (s.writeCtrl v).mem = s.mem := by
  unfold State.writeCtrl; cases v.getLsbD 0 <;> cases v.getLsbD 1 <;> simp [State.resetBlock, State.clearResult, State.reset]
@[simp] theorem State.writeCtrl_env (v : Word) (s : State) : (s.writeCtrl v).env = s.env := by
  unfold State.writeCtrl; cases v.getLsbD 0 <;> cases v.getLsbD 1 <;> simp [State.resetBlock, State.clearResult, State.reset]

/-! ### State.rxArrive -/

@[simp] theorem State.rxArrive_param (e : RxEvent) (s : State) : (s.rxArrive e).param = s.param := by
  unfold State.rxArrive; split_ifs <;> rfl
@[simp] theorem State.rxArrive_ie (e : RxEvent) (s : State) : (s.rxArrive e).ie = s.ie := by
  unfold State.rxArrive; split_ifs <;> rfl
@[simp] theorem State.rxArrive_status (e : RxEvent) (s : State) : (s.rxArrive e).status = s.status := by
  unfold State.rxArrive; split_ifs <;> rfl
@[simp] theorem State.rxArrive_value (e : RxEvent) (s : State) : (s.rxArrive e).value = s.value := by
  unfold State.rxArrive; split_ifs <;> rfl
@[simp] theorem State.rxArrive_rx (e : RxEvent) (s : State) : (s.rxArrive e).rx = s.rx := by
  unfold State.rxArrive; split_ifs <;> rfl
@[simp] theorem State.rxArrive_tx (e : RxEvent) (s : State) : (s.rxArrive e).tx = s.tx := by
  unfold State.rxArrive; split_ifs <;> rfl
@[simp] theorem State.rxArrive_eng (e : RxEvent) (s : State) : (s.rxArrive e).eng = s.eng := by
  unfold State.rxArrive; split_ifs <;> rfl
@[simp] theorem State.rxArrive_mem (e : RxEvent) (s : State) : (s.rxArrive e).mem = s.mem := by
  unfold State.rxArrive; split_ifs <;> rfl

/-! ### State.txReadyWith -/

@[simp] theorem State.txReadyWith_param (a : TxAnswer) (s : State) : (s.txReadyWith a).param = s.param := rfl
@[simp] theorem State.txReadyWith_ie (a : TxAnswer) (s : State) : (s.txReadyWith a).ie = s.ie := rfl
@[simp] theorem State.txReadyWith_status (a : TxAnswer) (s : State) : (s.txReadyWith a).status = s.status := rfl
@[simp] theorem State.txReadyWith_value (a : TxAnswer) (s : State) : (s.txReadyWith a).value = s.value := rfl
@[simp] theorem State.txReadyWith_rx (a : TxAnswer) (s : State) : (s.txReadyWith a).rx = s.rx := rfl
@[simp] theorem State.txReadyWith_tx (a : TxAnswer) (s : State) : (s.txReadyWith a).tx = s.tx := rfl
@[simp] theorem State.txReadyWith_eng (a : TxAnswer) (s : State) : (s.txReadyWith a).eng = s.eng := rfl
@[simp] theorem State.txReadyWith_mem (a : TxAnswer) (s : State) : (s.txReadyWith a).mem = s.mem := rfl
@[simp] theorem State.txReadyWith_env (a : TxAnswer) (s : State) : (s.txReadyWith a).env = { s.env with txReady := some a } := rfl

/-! ### State.attachStreams -/

@[simp] theorem State.attachStreams_param (s : State) : (s.attachStreams).param = s.param := by
  unfold State.attachStreams; split_ifs <;> rfl
@[simp] theorem State.attachStreams_ie (s : State) : (s.attachStreams).ie = s.ie := by
  unfold State.attachStreams; split_ifs <;> rfl
@[simp] theorem State.attachStreams_status (s : State) : (s.attachStreams).status = s.status := by
  unfold State.attachStreams; split_ifs <;> rfl
@[simp] theorem State.attachStreams_value (s : State) : (s.attachStreams).value = s.value := by
  unfold State.attachStreams; split_ifs <;> rfl
@[simp] theorem State.attachStreams_rx (s : State) : (s.attachStreams).rx = s.rx := by
  unfold State.attachStreams; split_ifs <;> rfl
@[simp] theorem State.attachStreams_tx (s : State) : (s.attachStreams).tx = s.tx := by
  unfold State.attachStreams; split_ifs <;> rfl
@[simp] theorem State.attachStreams_eng (s : State) : (s.attachStreams).eng = s.eng := by
  unfold State.attachStreams; split_ifs <;> rfl
@[simp] theorem State.attachStreams_mem (s : State) : (s.attachStreams).mem = s.mem := by
  unfold State.attachStreams; split_ifs <;> rfl

/-! ### State.afterTurn -/

@[simp] theorem State.afterTurn_param (s : State) : (s.afterTurn).param = s.param := by
  unfold State.afterTurn; split <;> rfl
@[simp] theorem State.afterTurn_ie (s : State) : (s.afterTurn).ie = s.ie := by
  unfold State.afterTurn; split <;> rfl
@[simp] theorem State.afterTurn_status (s : State) : (s.afterTurn).status = s.status := by
  unfold State.afterTurn; split <;> rfl
@[simp] theorem State.afterTurn_value (s : State) : (s.afterTurn).value = s.value := by
  unfold State.afterTurn; split <;> rfl
@[simp] theorem State.afterTurn_rx (s : State) : (s.afterTurn).rx = s.rx := by
  unfold State.afterTurn; split <;> rfl
@[simp] theorem State.afterTurn_tx (s : State) : (s.afterTurn).tx = s.tx := by
  unfold State.afterTurn; split <;> rfl
@[simp] theorem State.afterTurn_eng (s : State) : (s.afterTurn).eng = s.eng := by
  unfold State.afterTurn; split <;> rfl
@[simp] theorem State.afterTurn_mem (s : State) : (s.afterTurn).mem = s.mem := by
  unfold State.afterTurn; split <;> rfl

/-! ### State.place -/

@[simp] theorem State.place_param (t : Turn) (s : State) : (s.place t).param = s.param := rfl
@[simp] theorem State.place_ie (t : Turn) (s : State) : (s.place t).ie = s.ie := rfl
@[simp] theorem State.place_status (t : Turn) (s : State) : (s.place t).status = s.status := rfl
@[simp] theorem State.place_value (t : Turn) (s : State) : (s.place t).value = s.value := rfl
@[simp] theorem State.place_rx (t : Turn) (s : State) : (s.place t).rx = s.rx := rfl
@[simp] theorem State.place_tx (t : Turn) (s : State) : (s.place t).tx = s.tx := rfl
@[simp] theorem State.place_eng (t : Turn) (s : State) : (s.place t).eng = s.eng := rfl
@[simp] theorem State.place_mem (t : Turn) (s : State) : (s.place t).mem = s.mem := rfl
@[simp] theorem State.place_env (t : Turn) (s : State) : (s.place t).env = { s.env with agenda := t :: s.env.agenda } := rfl

/-! ### State.placeCommand -/

@[simp] theorem State.placeCommand_param (w : Word) (s : State) : (s.placeCommand w).param = s.param := rfl
@[simp] theorem State.placeCommand_ie (w : Word) (s : State) : (s.placeCommand w).ie = s.ie := rfl
@[simp] theorem State.placeCommand_status (w : Word) (s : State) : (s.placeCommand w).status = s.status := rfl
@[simp] theorem State.placeCommand_value (w : Word) (s : State) : (s.placeCommand w).value = s.value := rfl
@[simp] theorem State.placeCommand_rx (w : Word) (s : State) : (s.placeCommand w).rx = s.rx := rfl
@[simp] theorem State.placeCommand_tx (w : Word) (s : State) : (s.placeCommand w).tx = s.tx := rfl
@[simp] theorem State.placeCommand_eng (w : Word) (s : State) : (s.placeCommand w).eng = { s.eng with eop := .idle } := rfl
@[simp] theorem State.placeCommand_mem (w : Word) (s : State) : (s.placeCommand w).mem = s.mem := rfl
@[simp] theorem State.placeCommand_env (w : Word) (s : State) : (s.placeCommand w).env = { s.env with agenda := .host (cmdWrite w) :: s.env.agenda } := rfl

end Sys2Proof.Machine
end

