-- ==== Sys2Proof/Laws/Memory.lean ====
section
/-! SUPPORT. The laws of the byte memory: what a read after a write gives, and that every write keeps the canonical form. -/
namespace Sys2Proof.Machine

theorem Memory.read?_write_same (m : Memory) (x : Nat) (v : Byte) : Memory.read? (Memory.write m x v) x = some v := by
  induction m with
  | nil => simp [Memory.write, Memory.read?]
  | cons c m ih =>
    obtain ⟨a, b⟩ := c
    simp only [Memory.write]
    split_ifs with h1 h2
    · simp [Memory.read?]
    · simp [Memory.read?]
    · simp [Memory.read?, h2, ih]

theorem Memory.read?_write_other (m : Memory) {x y : Nat} (v : Byte) (h : y ≠ x) :
    Memory.read? (Memory.write m x v) y = Memory.read? m y := by
  induction m with
  | nil => simp [Memory.write, Memory.read?, h]
  | cons c m ih =>
    obtain ⟨a, b⟩ := c
    simp only [Memory.write]
    split_ifs with h1 h2
    · simp [Memory.read?, h]
    · subst h2; simp [Memory.read?, h]
    · simp [Memory.read?, ih]

theorem Memory.mem_write {m : Memory} {x : Nat} {v : Byte} {c : Host.Cell} (h : c ∈ Memory.write m x v) :
    c = (x, v) ∨ c ∈ m := by
  induction m with
  | nil => simpa [Memory.write] using h
  | cons d m ih =>
    obtain ⟨a, b⟩ := d
    simp only [Memory.write] at h
    split_ifs at h with h1 h2
    · simpa using h
    · rcases List.mem_cons.1 h with h | h
      · exact .inl h
      · exact .inr (List.mem_cons_of_mem _ h)
    · rcases List.mem_cons.1 h with h | h
      · exact .inr (h ▸ List.mem_cons_self)
      · exact (ih h).imp id (List.mem_cons_of_mem _)

theorem Memory.write_wf {m : Memory} (hm : Memory.wf m) (x : Nat) (v : Byte) : Memory.wf (Memory.write m x v) := by
  induction m with
  | nil => simp [Memory.write, Memory.wf]
  | cons d m ih =>
    obtain ⟨a, b⟩ := d
    obtain ⟨hd, hm'⟩ := List.pairwise_cons.1 hm
    simp only [Memory.write]
    split_ifs with h1 h2
    · refine List.pairwise_cons.2 ⟨?_, hm⟩
      intro c hc
      rcases List.mem_cons.1 hc with rfl | hc
      · exact h1
      · exact h1.trans (hd c hc)
    · subst h2; exact List.pairwise_cons.2 ⟨hd, hm'⟩
    · refine List.pairwise_cons.2 ⟨?_, ih hm'⟩
      intro c hc
      rcases Memory.mem_write hc with rfl | hc
      · have : a < x := by omega
        exact this
      · exact hd c hc

theorem Memory.writeAll_wf {m : Memory} (hm : Memory.wf m) (x : Nat) (L : List Byte) :
    Memory.wf (Memory.writeAll m x L) := by
  induction L generalizing m x with
  | nil => exact hm
  | cons b L ih => exact ih (Memory.write_wf hm x b) (x + 1)

theorem Memory.mem_writeAll {m : Memory} {x : Nat} {L : List Byte} {c : Host.Cell}
    (h : c ∈ Memory.writeAll m x L) : (x ≤ c.1 ∧ c.1 < x + L.length) ∨ c ∈ m := by
  induction L generalizing m x with
  | nil => exact .inr h
  | cons b L ih =>
    rcases ih h with h | h
    · left; simp only [List.length_cons]; omega
    · rcases Memory.mem_write h with rfl | h
      · left; simp
      · exact .inr h

/-- A byte outside the ones written is as before. -/
theorem Memory.read?_writeAll_other (m : Memory) {x y : Nat} (L : List Byte) (h : ¬ (x ≤ y ∧ y < x + L.length)) :
    Memory.read? (Memory.writeAll m x L) y = Memory.read? m y := by
  induction L generalizing m x with
  | nil => rfl
  | cons b L ih =>
    simp only [List.length_cons] at h
    rw [Memory.writeAll, ih _ (by omega), Memory.read?_write_other _ _ (by omega)]

/-- Byte `j` of the list stands at offset `j`. -/
theorem Memory.read?_writeAll (m : Memory) (x : Nat) (L : List Byte) (j : Nat) (h : j < L.length) :
    Memory.read? (Memory.writeAll m x L) (x + j) = some L[j] := by
  induction L generalizing m x j with
  | nil => simp at h
  | cons b L ih =>
    cases j with
    | zero =>
      rw [Memory.writeAll, Memory.read?_writeAll_other _ _ (by omega), Nat.add_zero, Memory.read?_write_same]
      rfl
    | succ j =>
      rw [Memory.writeAll, show x + (j + 1) = x + 1 + j by omega, ih]
      · rfl

/-! ### Bytes of the buffers -/

theorem State.byteAt_of_mem {s t : State} (h : t.mem = s.mem) (a : Nat) : t.byteAt a = s.byteAt a := by
  simp [State.byteAt, h]

@[simp] theorem State.byteAt_setRxByte_same (s : State) (i : Nat) (b : Byte) :
    (s.setRxByte i b).byteAt (rxBase + i) = b := by
  simp [State.byteAt, Memory.read?_write_same]

theorem State.byteAt_setRxByte_other (s : State) {i a : Nat} (b : Byte) (h : a ≠ rxBase + i) :
    (s.setRxByte i b).byteAt a = s.byteAt a := by
  simp [State.byteAt, Memory.read?_write_other _ _ h]

theorem State.txByte_setTxBytes (s : State) (i : Nat) (L : List Byte) (j : Nat) (h : j < L.length) :
    (s.setTxBytes i L).txByte (i + j) = L[j] := by
  simp [State.txByte, State.byteAt, ← Nat.add_assoc, Memory.read?_writeAll _ _ _ _ h]

theorem State.byteAt_setTxBytes_other (s : State) {i a : Nat} (L : List Byte)
    (h : ¬ (txBase + i ≤ a ∧ a < txBase + i + L.length)) : (s.setTxBytes i L).byteAt a = s.byteAt a := by
  simp [State.byteAt, Memory.read?_writeAll_other _ _ h]

end Sys2Proof.Machine
end

