-- ==== Sys2Proof/Laws/Ops.lean ====
section
/-! SUPPORT. One lemma per shared operation that says everything it can do. -/
namespace Sys2Proof

theorem Param.rxBytes_le (p : Param) : p.rxBytes ≤ 65536 :=
  (Nat.pow_le_pow_right (by decide) p.rxLog2.inRange.2 : 2 ^ p.rxLog2.val ≤ 2 ^ 16)

theorem Param.txBytes_le (p : Param) : p.txBytes ≤ 65536 :=
  (Nat.pow_le_pow_right (by decide) p.txLog2.inRange.2 : 2 ^ p.txLog2.val ≤ 2 ^ 16)

theorem Param.le_rxBytes (p : Param) : 16 ≤ p.rxBytes :=
  (Nat.pow_le_pow_right (by decide) p.rxLog2.inRange.1 : 2 ^ 4 ≤ 2 ^ p.rxLog2.val)

theorem Param.le_txBytes (p : Param) : 16 ≤ p.txBytes :=
  (Nat.pow_le_pow_right (by decide) p.txLog2.inRange.1 : 2 ^ 4 ≤ 2 ^ p.txLog2.val)

end Sys2Proof

namespace Sys2Proof.Machine

/-! ### Small facts about the flags and the registers -/

theorem State.busy_eq_false (s : State) : s.busy = false ↔ s.eng.eop = .idle := by simp [State.busy]

theorem State.busy_eq_true (s : State) : s.busy = true ↔ s.eng.eop ≠ .idle := by simp [State.busy]

/-- Issue and an error together are the rejection the statements speak of. -/
theorem State.raise_beginIssue (opc : Byte) (e : ErrCode) (s : State) :
    (s.beginIssue opc).raise e = rejected opc e s := rfl

/-- Advancing a 17-bit cursor inside 17 bits adds. -/
theorem Len.toNat_add_ofNat (x : Len) (n : Nat) (h : x.toNat + n < 131072) :
    (x + BitVec.ofNat 17 n).toNat = x.toNat + n := by
  rw [BitVec.toNat_add, BitVec.toNat_ofNat]
  omega

/-! ### The append primitive -/

/-- Without room a PUT raises BUF_FULL. -/
theorem putBytes_full {L : List Byte} {s : State} (h : s.param.txBytes < s.tx.len.toNat + L.length) :
    putBytes L s = .next (s.raise .bufFull) := by
  simp [putBytes, h]

/-- What a PUT with room leaves. -/
def State.appended (L : List Byte) (s : State) : State :=
  { s with
    status := { s.status with done := true }
    tx := { s.tx with len := s.tx.len + BitVec.ofNat 17 L.length }
    eng := { s.eng with eop := .idle }
    mem := Memory.writeAll s.mem (txBase + s.tx.len.toNat) L }

theorem putBytes_room {L : List Byte} {s : State} (h : s.tx.len.toNat + L.length ≤ s.param.txBytes) :
    putBytes L s = .next (s.appended L) := by
  rw [putBytes, if_neg (by omega)]
  rfl

/-- A PUT either raises BUF_FULL or appends. -/
theorem putBytes_cases {L : List Byte} {s t : State} (h : putBytes L s = .next t) :
    (s.param.txBytes < s.tx.len.toNat + L.length ∧ t = s.raise .bufFull) ∨
    (s.tx.len.toNat + L.length ≤ s.param.txBytes ∧ t = s.appended L) := by
  by_cases hr : s.tx.len.toNat + L.length ≤ s.param.txBytes
  · rw [putBytes_room hr] at h
    exact .inr ⟨hr, by cases h; rfl⟩
  · rw [putBytes_full (by omega)] at h
    exact .inl ⟨by omega, by cases h; rfl⟩

/-- The cursor, the stored bytes and the others after an append. -/
theorem State.appended_len {L : List Byte} {s : State} (h : s.tx.len.toNat + L.length ≤ s.param.txBytes) :
    (s.appended L).tx.len.toNat = s.tx.len.toNat + L.length :=
  Len.toNat_add_ofNat _ _ (by have := s.param.txBytes_le; omega)

theorem State.appended_txByte (L : List Byte) (s : State) (j : Nat) (h : j < L.length) :
    (s.appended L).txByte (s.tx.len.toNat + j) = L.getD j 0 := by
  simp [State.appended, State.txByte, State.byteAt, ← Nat.add_assoc, Memory.read?_writeAll _ _ _ _ h, h]

theorem State.appended_others (L : List Byte) (s : State) {a : Nat}
    (h : ¬ (txBase + s.tx.len.toNat ≤ a ∧ a < txBase + s.tx.len.toNat + L.length)) :
    (s.appended L).byteAt a = s.byteAt a := by
  simp [State.appended, State.byteAt, Memory.read?_writeAll_other _ _ h]

/-! ### The read primitives -/

theorem withBody_of_le {s : State} (k : Out) (h : s.rx.bodyLen.toNat ≤ s.param.rxBytes) : withBody s k = k := by
  rw [withBody, if_neg (by omega)]

theorem withBody_of_lt {s : State} (k : Out) (h : s.param.rxBytes < s.rx.bodyLen.toNat) :
    withBody s k = .fault .rxIndex := by
  rw [withBody, if_pos h]

/-- Inside the body a fixed-width GET goes on with the bytes at the cursor. -/
theorem getBytes_inside {n : Nat} {k : List Byte → State → State} {s : State}
    (hb : s.rx.bodyLen.toNat ≤ s.param.rxBytes) (h : s.rx.pos.toNat + n ≤ s.rx.bodyLen.toNat) :
    getBytes n k s = .next (k (s.rxBytesAt s.rx.pos.toNat n) (s.advancePos n)) := by
  rw [getBytes, withBody_of_le _ hb, if_neg (by omega)]

/-- Past the body's end a fixed-width GET raises END_OF_DATA. -/
theorem getBytes_past {n : Nat} {k : List Byte → State → State} {s : State}
    (hb : s.rx.bodyLen.toNat ≤ s.param.rxBytes) (h : s.rx.bodyLen.toNat < s.rx.pos.toNat + n) :
    getBytes n k s = .next (s.raise .endOfData) := by
  rw [getBytes, withBody_of_le _ hb, if_pos h]

theorem getBytes_cases {n : Nat} {k : List Byte → State → State} {s t : State} (h : getBytes n k s = .next t) :
    s.rx.bodyLen.toNat ≤ s.param.rxBytes ∧
    ((s.rx.bodyLen.toNat < s.rx.pos.toNat + n ∧ t = s.raise .endOfData) ∨
     (s.rx.pos.toNat + n ≤ s.rx.bodyLen.toNat ∧ t = k (s.rxBytesAt s.rx.pos.toNat n) (s.advancePos n))) := by
  by_cases hb : s.rx.bodyLen.toNat ≤ s.param.rxBytes
  · refine ⟨hb, ?_⟩
    by_cases hp : s.rx.pos.toNat + n ≤ s.rx.bodyLen.toNat
    · rw [getBytes_inside hb hp] at h
      exact .inr ⟨hp, by cases h; rfl⟩
    · rw [getBytes_past hb (by omega)] at h
      exact .inl ⟨by omega, by cases h; rfl⟩
  · rw [getBytes, withBody_of_lt _ (by omega)] at h
    cases h

theorem getVarint_error {k : Word → State → State} {s : State} {e : ErrCode}
    (hb : s.rx.bodyLen.toNat ≤ s.param.rxBytes)
    (h : uvDecode s.rxByte s.rx.pos.toNat s.rx.bodyLen.toNat = .error e) :
    getVarint k s = .next (s.raise e) := by
  rw [getVarint, withBody_of_le _ hb, h]

theorem getVarint_ok {k : Word → State → State} {s : State} {u : Word} {n : Nat}
    (hb : s.rx.bodyLen.toNat ≤ s.param.rxBytes)
    (h : uvDecode s.rxByte s.rx.pos.toNat s.rx.bodyLen.toNat = .ok (u, n)) :
    getVarint k s = .next (k u (s.advancePos n)) := by
  rw [getVarint, withBody_of_le _ hb, h]

/-- A varint read raises what `uv_decode` raises, or goes on with the value at the advanced cursor. -/
theorem getVarint_cases {k : Word → State → State} {s t : State} (h : getVarint k s = .next t) :
    s.rx.bodyLen.toNat ≤ s.param.rxBytes ∧
    ((∃ e, uvDecode s.rxByte s.rx.pos.toNat s.rx.bodyLen.toNat = .error e ∧ t = s.raise e) ∨
     (∃ u n, uvDecode s.rxByte s.rx.pos.toNat s.rx.bodyLen.toNat = .ok (u, n) ∧ t = k u (s.advancePos n))) := by
  by_cases hb : s.rx.bodyLen.toNat ≤ s.param.rxBytes
  · refine ⟨hb, ?_⟩
    match hd : uvDecode s.rxByte s.rx.pos.toNat s.rx.bodyLen.toNat with
    | .error e =>
      rw [getVarint_error hb hd] at h
      exact .inl ⟨e, rfl, by cases h; rfl⟩
    | .ok (u, n) =>
      rw [getVarint_ok hb hd] at h
      exact .inr ⟨u, n, rfl, by cases h; rfl⟩
  · rw [getVarint, withBody_of_lt _ (by omega)] at h
    cases h

end Sys2Proof.Machine
end

