-- ==== Sys2Proof/Laws/Codec.lean ====
section
/-! SUPPORT. Big-endian bytes and unsigned varints: the forms the definitions take for the widths in use. -/
namespace Sys2Proof.Machine

/-! ### Big-endian bytes -/

theorem beBytes_one (v : Word) : beBytes 1 v = [v.extractLsb' 0 8] := by
  simp [beBytes, List.range_succ, BitVec.setWidth_eq_extractLsb']

theorem beBytes_two (v : Word) : beBytes 2 v = [v.extractLsb' 8 8, v.extractLsb' 0 8] := by
  simp [beBytes, List.range_succ]
  constructor <;> (ext i hi; simp)

theorem beBytes_four (v : Word) :
    beBytes 4 v = [v.extractLsb' 24 8, v.extractLsb' 16 8, v.extractLsb' 8 8, v.extractLsb' 0 8] := by
  simp [beBytes, List.range_succ]
  refine ⟨?_, ?_, ?_, ?_⟩ <;> (ext i hi; simp)

theorem beBytes_length (n : Nat) (v : Word) : (beBytes n v).length = n := by simp [beBytes]

/-- Shifting a byte in is appending it to the low 24 bits. -/
theorem shiftIn_eq (acc : Word) (b : Byte) : shiftIn acc b = acc.extractLsb' 0 24 ++ b := by
  apply BitVec.eq_of_toNat_eq
  have := b.isLt
  simp only [shiftIn, BitVec.toNat_add, BitVec.toNat_mul, BitVec.toNat_setWidth, BitVec.toNat_append,
    BitVec.extractLsb'_toNat, BitVec.toNat_ofNat, Nat.shiftRight_zero]
  rw [Nat.shiftLeft_eq, ← Nat.shiftLeft_eq, ← Nat.shiftLeft_add_eq_or_of_lt b.isLt, Nat.shiftLeft_eq]
  omega

theorem beJoin_one (a : Byte) : beJoin [a] = a.setWidth 32 := by
  simp [beJoin, shiftIn]

theorem beJoin_two (a b : Byte) : beJoin [a, b] = (a ++ b).setWidth 32 := by
  apply BitVec.eq_of_toNat_eq
  have := a.isLt
  have := b.isLt
  have h0 : (0 : Word).toNat = 0 := rfl
  simp only [beJoin, List.foldl, shiftIn, BitVec.toNat_add, BitVec.toNat_mul, BitVec.toNat_setWidth, BitVec.toNat_append,
    BitVec.toNat_ofNat, h0, Nat.zero_mul, Nat.zero_mod, Nat.zero_add]
  rw [← Nat.shiftLeft_add_eq_or_of_lt b.isLt, Nat.shiftLeft_eq]
  omega

theorem beJoin_four (a b c d : Byte) : beJoin [a, b, c, d] = a ++ b ++ c ++ d := by
  apply BitVec.eq_of_toNat_eq
  have := a.isLt
  have := b.isLt
  have := c.isLt
  have := d.isLt
  have h0 : (0 : Word).toNat = 0 := rfl
  simp only [beJoin, List.foldl, shiftIn, BitVec.toNat_add, BitVec.toNat_mul, BitVec.toNat_setWidth, BitVec.toNat_append,
    BitVec.toNat_ofNat, h0, Nat.zero_mul, Nat.zero_mod, Nat.zero_add]
  rw [← Nat.shiftLeft_add_eq_or_of_lt b.isLt, ← Nat.shiftLeft_add_eq_or_of_lt c.isLt,
    ← Nat.shiftLeft_add_eq_or_of_lt d.isLt]
  simp only [Nat.shiftLeft_eq]
  omega

theorem State.rxBytesAt_one (s : State) (i : Nat) : s.rxBytesAt i 1 = [s.rxByte i] := by
  simp [State.rxBytesAt, List.range_succ]

theorem State.rxBytesAt_two (s : State) (i : Nat) : s.rxBytesAt i 2 = [s.rxByte i, s.rxByte (i + 1)] := by
  simp [State.rxBytesAt, List.range_succ]

theorem State.rxBytesAt_four (s : State) (i : Nat) :
    s.rxBytesAt i 4 = [s.rxByte i, s.rxByte (i + 1), s.rxByte (i + 2), s.rxByte (i + 3)] := by
  simp [State.rxBytesAt, List.range_succ]

theorem State.txBytesAt_one (s : State) (i : Nat) : s.txBytesAt i 1 = [s.txByte i] := by
  simp [State.txBytesAt, List.range_succ]

theorem State.txBytesAt_two (s : State) (i : Nat) : s.txBytesAt i 2 = [s.txByte i, s.txByte (i + 1)] := by
  simp [State.txBytesAt, List.range_succ]

theorem State.txBytesAt_four (s : State) (i : Nat) :
    s.txBytesAt i 4 = [s.txByte i, s.txByte (i + 1), s.txByte (i + 2), s.txByte (i + 3)] := by
  simp [State.txBytesAt, List.range_succ]

/-! ### Unsigned varints -/

theorem uvGroups_last (fuel u : Nat) (h : u < 128) : uvGroups (fuel + 1) u = [BitVec.ofNat 8 u] := by
  have h1 : u / 128 = 0 := by omega
  have h2 : u % 128 = u := by omega
  simp [uvGroups, h1, h2]

theorem uvGroups_more (fuel u : Nat) (h : 128 ≤ u) :
    uvGroups (fuel + 1) u = BitVec.ofNat 8 (u % 128 + 128) :: uvGroups fuel (u / 128) := by
  have h1 : u / 128 ≠ 0 := by omega
  simp [uvGroups, h1]

theorem uvDecodeFrom_end (read : Nat → Byte) (p len fuel i value : Nat) (h : len ≤ p + i) :
    uvDecodeFrom read p len (fuel + 1) i value = .error .endOfData := by
  simp [uvDecodeFrom, h]

theorem uvDecodeFrom_overflow (read : Nat → Byte) (p len fuel value : Nat) (h : p + 4 < len)
    (hb : 15 < (read (p + 4)).toNat) :
    uvDecodeFrom read p len (fuel + 1) 4 value = .error .varintOverflow := by
  simp [uvDecodeFrom, h, hb]

theorem uvDecodeFrom_last (read : Nat → Byte) (p len fuel i value : Nat) (h : p + i < len)
    (hb : (read (p + i)).toNat < 128) (h4 : i = 4 → (read (p + i)).toNat ≤ 15) :
    uvDecodeFrom read p len (fuel + 1) i value =
      .ok (BitVec.ofNat 32 (value + (read (p + i)).toNat % 128 * 2 ^ (7 * i)), i + 1) := by
  have h1 : ¬ (i = 4 ∧ 15 < (read (p + i)).toNat) := by omega
  rw [uvDecodeFrom, if_neg (by omega), if_neg h1, if_pos hb]

theorem uvDecodeFrom_more (read : Nat → Byte) (p len fuel i value : Nat) (h : p + i < len)
    (hb : 128 ≤ (read (p + i)).toNat) (h4 : i ≠ 4) :
    uvDecodeFrom read p len (fuel + 1) i value =
      uvDecodeFrom read p len fuel (i + 1) (value + (read (p + i)).toNat % 128 * 2 ^ (7 * i)) := by
  have h1 : ¬ (i = 4 ∧ 15 < (read (p + i)).toNat) := by omega
  rw [uvDecodeFrom, if_neg (by omega), if_neg h1, if_neg (by omega)]

end Sys2Proof.Machine
end

