-- ==== Sys2Proof/Laws/Decode.lean ====
section
/-! SUPPORT. The form of the opcode map: every row fixes the upper half of the word, and no two rows share it. -/
namespace Sys2Proof

/-- A word is its upper half and its lower half. -/
theorem word_halves (w : Word) : w.extractLsb' 16 16 ++ w.extractLsb' 0 16 = w := by
  ext i hi
  simp only [BitVec.getElem_append, BitVec.getElem_extractLsb']
  split_ifs with h
  · simp [BitVec.getLsbD_eq_getElem hi]
  · have : 16 + (i - 16) = i := by omega
    simp [this, BitVec.getLsbD_eq_getElem hi]

theorem append_lower (x y : Half) : (x ++ y).extractLsb' 0 16 = y := by
  ext i hi
  simp only [BitVec.getElem_extractLsb', BitVec.getLsbD_append, Nat.zero_add, hi, if_true,
    BitVec.getLsbD_eq_getElem]

theorem append_upper (x y : Half) : (x ++ y).extractLsb' 16 16 = x := by
  ext i hi
  have h1 : ¬ 16 + i < 16 := by omega
  have h2 : 16 + i - 16 = i := by omega
  simp only [BitVec.getElem_extractLsb', BitVec.getLsbD_append, h1, h2, if_false, hi,
    BitVec.getLsbD_eq_getElem]

/-- Every mask covers the upper half, and every pattern has a clear lower half (R113). -/
theorem opcodeMap_form : ∀ r ∈ opcodeMap,
    r.mask.extractLsb' 16 16 = BitVec.allOnes 16 ∧ r.pattern.extractLsb' 0 16 = 0#16 := by decide

/-- The upper halves of the patterns are pairwise different (R113). -/
theorem opcodeMap_heads_distinct :
    (opcodeMap.map fun r => r.pattern.extractLsb' 16 16).Nodup := by decide

/-- What a row asks of the two halves of a word. -/
theorem Row.selects_append (r : Row) (hr : r ∈ opcodeMap) (hi lo : Half) :
    r.selects (hi ++ lo) = true ↔ hi = r.pattern.extractLsb' 16 16 ∧ lo &&& r.mask.extractLsb' 0 16 = 0 := by
  obtain ⟨hm, hp⟩ := opcodeMap_form r hr
  have key : (hi ++ lo) &&& r.mask = hi ++ (lo &&& r.mask.extractLsb' 0 16) := by
    conv_lhs => rw [← word_halves r.mask, hm]
    exact (BitVec.and_append (x₁ := hi) (x₂ := BitVec.allOnes 16) (y₁ := lo)).trans
      (by rw [BitVec.and_allOnes])
  rw [Row.selects, beq_iff_eq, key]
  constructor
  · intro h
    have h1 := congrArg (fun v : Word => v.extractLsb' 16 16) h
    have h2 := congrArg (fun v : Word => v.extractLsb' 0 16) h
    simp only [append_upper, append_lower] at h1 h2
    exact ⟨h1, by rw [h2, hp]; rfl⟩
  · rintro ⟨rfl, h⟩
    rw [h]
    conv_rhs => rw [← word_halves r.pattern, hp]
    rfl

/-- What a row asks of a word: its upper half, and clear bits where the lower half is fixed (R113). -/
theorem Row.selects_iff (r : Row) (hr : r ∈ opcodeMap) (w : Word) :
    r.selects w = true ↔
      w.extractLsb' 16 16 = r.pattern.extractLsb' 16 16 ∧ immOf w &&& r.mask.extractLsb' 0 16 = 0 := by
  have h := r.selects_append hr (w.extractLsb' 16 16) (w.extractLsb' 0 16)
  rwa [word_halves] at h

theorem Row.selects_def (r : Row) (w : Word) : r.selects w = true ↔ w &&& r.mask = r.pattern := by
  simp [Row.selects]

theorem commandWord_halves (opc : Byte) (s n : Bool) (imm : Half) :
    commandWord opc s n imm = (opc ++ BitVec.ofBool s ++ BitVec.ofBool n ++ 0#6 : BitVec 16) ++ imm := rfl

end Sys2Proof
end

