-- ==== Sys2Proof/Laws/Engine.lean ====
section
/-! SUPPORT. Everything an ENGINE step can do, said once. -/
namespace Sys2Proof.Machine

theorem engineTurn_idle {s : State} (h : s.eng.eop = .idle) : engineTurn s = .next s := by
  simp [engineTurn, h]

theorem engineTurn_dec_held {s : State} (h : s.eng.eop = .dec) (hp : s.env.rxPending = []) : engineTurn s = .next s := by
  simp [engineTurn, h, hp]

theorem engineTurn_enc_held {s : State} (h : s.eng.eop = .enc) (hr : s.env.txReady = none) : engineTurn s = .next s := by
  simp [engineTurn, h, hr]

theorem engineTurn_dec {s : State} {e : RxEvent} {rest : List RxEvent} (h : s.eng.eop = .dec)
    (hp : s.env.rxPending = e :: rest) :
    engineTurn s = decodeStep e { s with env := { s.env with rxPending := rest } } := by
  simp [engineTurn, h, hp]

theorem engineTurn_enc {s : State} {a : TxAnswer} (h : s.eng.eop = .enc) (hr : s.env.txReady = some a) :
    engineTurn s = encodeStep a { s with env := { s.env with txReady := none } } := by
  simp [engineTurn, h, hr]

/-! ### The size check -/

theorem sizeError_eq_none {size : Word} {n : Nat} : sizeError size n = none ↔ 8 ≤ size.toInt ∧ size.toInt - 8 ≤ n := by
  unfold sizeError
  split_ifs <;> simp <;> omega

theorem sizeError_malformed {size : Word} {n : Nat} (h : size.toInt < 8) : sizeError size n = some .malformedHeader := by
  simp [sizeError, h]

theorem sizeError_tooLarge {size : Word} {n : Nat} (h : 8 ≤ size.toInt) (h2 : (n : Int) < size.toInt - 8) :
    sizeError size n = some .frameTooLarge := by
  rw [sizeError, if_neg (by omega), if_pos h2]

theorem sizeError_ne {size : Word} {n : Nat} {e : ErrCode} (h : sizeError size n = some e) : e ≠ .noError := by
  unfold sizeError at h
  split_ifs at h <;> cases h <;> decide

/-! ### DECODE -/

theorem lastByte_eq_true {k : Nat} {size : Word} : lastByte k size = true ↔ 11 ≤ k ∧ (k : Int) + 1 = 4 + size.toInt := by
  simp [lastByte]

/-- The state a DECODE step builds before it checks or stores anything else: the byte counted, the field stored. -/
def State.took (b : Byte) (s : State) : State := (s.countByte b).storeField s.rx.count.toNat

theorem decodeByte_bad {b : Byte} {s : State} {e : ErrCode} (hk : s.rx.count.toNat = 3)
    (he : sizeError (s.took b).rx.size s.param.rxBytes = some e) : decodeByte b s = .next ((s.took b).failRx e) := by
  rw [State.took] at he ⊢
  simp only [decodeByte, if_pos hk, State.storeField_param, State.countByte_param, he]

theorem decodeByte_size {b : Byte} {s : State} (hk : s.rx.count.toNat = 3)
    (he : sizeError (s.took b).rx.size s.param.rxBytes = none) : decodeByte b s = .next (s.took b) := by
  rw [State.took] at he ⊢
  simp only [decodeByte, if_pos hk, State.storeField_param, State.countByte_param, he]

theorem decodeByte_header {b : Byte} {s : State} (hk : s.rx.count.toNat ≠ 3) (hk2 : s.rx.count.toNat < 12) :
    decodeByte b s =
      .next (if lastByte s.rx.count.toNat (s.took b).rx.size then (s.took b).finishDecode else s.took b) := by
  simp only [decodeByte, if_neg hk, if_pos hk2, State.took]
  rfl

theorem decodeByte_beyond {b : Byte} {s : State} (hk : 12 ≤ s.rx.count.toNat)
    (h : s.param.rxBytes ≤ s.rx.count.toNat - 12) : decodeByte b s = .fault .rxIndex := by
  simp only [decodeByte, if_neg (show ¬ s.rx.count.toNat = 3 by omega), if_neg (show ¬ s.rx.count.toNat < 12 by omega),
    State.storeField_param, State.countByte_param, if_pos h]

/-- The state a body-byte step builds: the byte counted and stored. -/
def State.tookBody (b : Byte) (s : State) : State := (s.took b).setRxByte (s.rx.count.toNat - 12) b

theorem decodeByte_body {b : Byte} {s : State} (hk : 12 ≤ s.rx.count.toNat)
    (h : s.rx.count.toNat - 12 < s.param.rxBytes) :
    decodeByte b s =
      .next (if lastByte s.rx.count.toNat (s.tookBody b).rx.size then (s.tookBody b).finishDecode else s.tookBody b) := by
  simp only [decodeByte, if_neg (show ¬ s.rx.count.toNat = 3 by omega), if_neg (show ¬ s.rx.count.toNat < 12 by omega),
    State.storeField_param, State.countByte_param, if_neg (show ¬ s.param.rxBytes ≤ s.rx.count.toNat - 12 by omega),
    State.tookBody, State.took]
  rfl

/-- After frame byte 11 a step stores no header field. -/
theorem State.took_body {b : Byte} {s : State} (hk : 12 ≤ s.rx.count.toNat) :
    s.took b = { s with rx := { s.rx with count := s.rx.count + 1 } } := by
  have h1 : ¬ s.rx.count.toNat ≤ 11 := by omega
  rw [State.took, State.storeField, if_neg (by omega), if_neg (by omega), if_neg (by omega), if_neg (by omega),
    State.countByte]
  simp [h1]

/-- The low half of ACC once a byte is shifted in. -/
theorem shiftIn_low (acc : Word) (b : Byte) : (shiftIn acc b).extractLsb' 0 16 = acc.extractLsb' 0 8 ++ b := by
  apply BitVec.eq_of_toNat_eq
  simp only [shiftIn, BitVec.toNat_add, BitVec.toNat_mul, BitVec.toNat_setWidth, BitVec.toNat_append,
    BitVec.extractLsb'_toNat, BitVec.toNat_ofNat, Nat.shiftRight_zero]
  rw [← Nat.shiftLeft_add_eq_or_of_lt b.isLt, Nat.shiftLeft_eq]
  omega

/-- What a header byte but byte 3 changes: the count, ACC, and the register of the field it completes. -/
theorem State.took_header {b : Byte} {s : State} (h3 : s.rx.count.toNat ≠ 3) (h12 : s.rx.count.toNat < 12) :
    s.took b = { s with
      rx := { s.rx with
        count := s.rx.count + 1
        apiKey := if s.rx.count.toNat = 5 then s.eng.acc.extractLsb' 0 8 ++ b else s.rx.apiKey
        apiVersion := if s.rx.count.toNat = 7 then s.eng.acc.extractLsb' 0 8 ++ b else s.rx.apiVersion
        corrId := if s.rx.count.toNat = 11 then s.eng.acc.extractLsb' 0 24 ++ b else s.rx.corrId }
      eng := { s.eng with acc := s.eng.acc.extractLsb' 0 24 ++ b } } := by
  have h11 : s.rx.count.toNat ≤ 11 := by omega
  simp only [State.took, State.storeField, State.countByte, ← shiftIn_eq, if_pos h11, if_neg h3, ← shiftIn_low]
  by_cases h5 : s.rx.count.toNat = 5
  · simp [h5]
  by_cases h7 : s.rx.count.toNat = 7
  · simp [h7]
  by_cases h9 : s.rx.count.toNat = 11 <;> simp [h5, h7, h9]

/-- What a DECODE step that consumes a byte can do. -/
theorem decodeByte_cases {b : Byte} {s t : State} (h : decodeByte b s = .next t) :
    (s.rx.count.toNat = 3 ∧
      ((∃ e, sizeError (s.took b).rx.size s.param.rxBytes = some e ∧ t = (s.took b).failRx e) ∨
       (sizeError (s.took b).rx.size s.param.rxBytes = none ∧ t = s.took b))) ∨
    (s.rx.count.toNat ≠ 3 ∧ s.rx.count.toNat < 12 ∧
      t = if lastByte s.rx.count.toNat (s.took b).rx.size then (s.took b).finishDecode else s.took b) ∨
    (12 ≤ s.rx.count.toNat ∧ s.rx.count.toNat - 12 < s.param.rxBytes ∧
      t = if lastByte s.rx.count.toNat (s.tookBody b).rx.size then (s.tookBody b).finishDecode else s.tookBody b) := by
  by_cases h3 : s.rx.count.toNat = 3
  · left
    refine ⟨h3, ?_⟩
    match he : sizeError (s.took b).rx.size s.param.rxBytes with
    | some e =>
      rw [decodeByte_bad h3 he] at h
      cases h; exact .inl ⟨e, rfl, rfl⟩
    | none =>
      rw [decodeByte_size h3 he] at h
      cases h; exact .inr ⟨rfl, rfl⟩
  by_cases h12 : s.rx.count.toNat < 12
  · rw [decodeByte_header h3 h12] at h
    cases h
    exact .inr (.inl ⟨h3, h12, rfl⟩)
  by_cases hr : s.rx.count.toNat - 12 < s.param.rxBytes
  · rw [decodeByte_body (by omega) hr] at h
    cases h
    exact .inr (.inr ⟨by omega, hr, rfl⟩)
  · rw [decodeByte_beyond (by omega) (by omega)] at h
    cases h

/-! ### ENCODE -/

/-- The bytes of the frame a running ENCODE sends (R101, R160). -/
theorem State.frameByte_eq (s : State) (j : Nat) (h : j < 8 + s.eng.elen.toNat) :
    (be4 s.eng.emsz ++ be4 s.eng.ecid ++ s.txBytesAt 0 s.eng.elen.toNat)[j]? = some (s.frameByte j) := by
  have hl : (be4 s.eng.emsz ++ be4 s.eng.ecid).length = 8 := rfl
  unfold State.frameByte
  rw [beBytes_four, beBytes_four]
  by_cases h8 : j < 8
  · rw [List.getElem?_append_left (by omega)]
    interval_cases j <;> rfl
  · rw [List.getElem?_append_right (by omega), hl, if_neg (by omega), if_neg (by omega)]
    simp [State.txBytesAt, show j - 8 < s.eng.elen.toNat by omega]

theorem encodeStep_beyond {a : TxAnswer} {s : State} (h8 : 8 ≤ s.tx.count.toNat)
    (h : s.param.txBytes ≤ s.tx.count.toNat - 8) : encodeStep a s = .fault .txIndex := by
  simp [encodeStep, h8, h]

/-- A byte accepted. -/
theorem encodeStep_ok {s : State} (h : 8 ≤ s.tx.count.toNat → s.tx.count.toNat - 8 < s.param.txBytes) :
    encodeStep .ok s =
      .next (if s.tx.count.toNat + 1 = 8 + s.eng.elen.toNat then (s.sent (s.frameByte s.tx.count.toNat)).completeOk
        else s.sent (s.frameByte s.tx.count.toNat)) := by
  have : ¬ (8 ≤ s.tx.count.toNat ∧ s.param.txBytes ≤ s.tx.count.toNat - 8) := by omega
  simp only [encodeStep, if_neg this, State.sent_eng]
  rfl

/-- A byte answered `Err`. -/
theorem encodeStep_err {s : State} (h : 8 ≤ s.tx.count.toNat → s.tx.count.toNat - 8 < s.param.txBytes) :
    encodeStep .err s = .next s.failTx := by
  have : ¬ (8 ≤ s.tx.count.toNat ∧ s.param.txBytes ≤ s.tx.count.toNat - 8) := by omega
  simp only [encodeStep, if_neg this]

theorem encodeStep_cases {a : TxAnswer} {s t : State} (h : encodeStep a s = .next t) :
    (a = .err ∧ t = s.failTx) ∨
    (a = .ok ∧ t = if s.tx.count.toNat + 1 = 8 + s.eng.elen.toNat then
      (s.sent (s.frameByte s.tx.count.toNat)).completeOk else s.sent (s.frameByte s.tx.count.toNat)) := by
  by_cases hr : 8 ≤ s.tx.count.toNat → s.tx.count.toNat - 8 < s.param.txBytes
  · cases a with
    | ok => rw [encodeStep_ok hr] at h; cases h; exact .inr ⟨rfl, rfl⟩
    | err => rw [encodeStep_err hr] at h; cases h; exact .inl ⟨rfl, rfl⟩
  · rw [encodeStep_beyond (by omega) (by omega)] at h
    cases h

/-! ### The ENGINE's turn -/

/-- The ENGINE's turn holds, or takes the first event offered, or TXSINK's answer. -/
theorem engineTurn_cases {s t : State} (h : engineTurn s = .next t) :
    (t = s ∧ (s.eng.eop = .idle ∨ (s.eng.eop = .dec ∧ s.env.rxPending = []) ∨ (s.eng.eop = .enc ∧ s.env.txReady = none))) ∨
    (s.eng.eop = .dec ∧ ∃ e rest, s.env.rxPending = e :: rest ∧
      decodeStep e { s with env := { s.env with rxPending := rest } } = .next t) ∨
    (s.eng.eop = .enc ∧ ∃ a, s.env.txReady = some a ∧
      encodeStep a { s with env := { s.env with txReady := none } } = .next t) := by
  match he : s.eng.eop with
  | .idle => rw [engineTurn_idle he] at h; cases h; exact .inl ⟨rfl, .inl rfl⟩
  | .dec =>
    match hp : s.env.rxPending with
    | [] => rw [engineTurn_dec_held he hp] at h; cases h; exact .inl ⟨rfl, .inr (.inl ⟨rfl, rfl⟩)⟩
    | e :: rest => rw [engineTurn_dec he hp] at h; exact .inr (.inl ⟨rfl, e, rest, rfl, h⟩)
  | .enc =>
    match hr : s.env.txReady with
    | none => rw [engineTurn_enc_held he hr] at h; cases h; exact .inl ⟨rfl, .inr (.inr ⟨rfl, rfl⟩)⟩
    | some a => rw [engineTurn_enc he hr] at h; exact .inr (.inr ⟨rfl, a, rfl, h⟩)

end Sys2Proof.Machine
end

