-- ==== Sys2Proof/Laws/Exec.lean ====
section
/-! SUPPORT. Everything a command can do, said once: the inversion lemma of `exec`. -/
namespace Sys2Proof.Machine

/-- The commands that append to the response body. -/
def isPut : Instr → Bool
  | .put8 | .put8i _ | .put16 | .put16i _ | .put32 | .put32i _ | .putuv | .putuvi _ | .putca | .putcai _ | .putcan => true
  | .decode | .encode | .rxseek _ | .txseek _ | .get8 | .get16 | .get32 | .getuv | .getca => false

/-- The commands that read the request body. -/
def isGet : Instr → Bool
  | .get8 | .get16 | .get32 | .getuv | .getca => true
  | .decode | .encode | .rxseek _ | .txseek _ | .put8 | .put8i _ | .put16 | .put16i _ | .put32 | .put32i _ | .putuv
  | .putuvi _ | .putca | .putcai _ | .putcan => false

/-- A `uv_decode` that succeeds took bytes of the body only. -/
theorem uvDecodeFrom_bound {read : Nat → Byte} {p len fuel i value : Nat} {u : Word} {n : Nat}
    (h : uvDecodeFrom read p len fuel i value = .ok (u, n)) : i < n ∧ p + n ≤ len := by
  induction fuel generalizing i value with
  | zero => simp [uvDecodeFrom] at h
  | succ fuel ih =>
    simp only [uvDecodeFrom] at h
    split_ifs at h
    · cases h; omega
    · have := ih h; omega

theorem uvDecode_bound {read : Nat → Byte} {p len : Nat} {u : Word} {n : Nat} (h : uvDecode read p len = .ok (u, n)) :
    1 ≤ n ∧ p + n ≤ len := by
  have := uvDecodeFrom_bound h
  omega

theorem uvDecodeFrom_error {read : Nat → Byte} {p len fuel i value : Nat} {e : ErrCode}
    (h : uvDecodeFrom read p len fuel i value = .error e) : e = .endOfData ∨ e = .varintOverflow := by
  induction fuel generalizing i value with
  | zero => cases h; exact .inr rfl
  | succ fuel ih =>
    simp only [uvDecodeFrom] at h
    split_ifs at h
    · cases h; exact .inl rfl
    · cases h; exact .inr rfl
    · exact ih h

/-- What the issue of command `i` in state `s` can leave. -/
inductive CommandEffect (s : State) : Instr → State → Prop where
  | rejects (i : Instr) (e : ErrCode) (he : e ≠ .noError) : CommandEffect s i (rejected i.opc e s)
  | startsDecode (h : s.status.rxClosed = false) : CommandEffect s .decode (s.beginIssue 0x01).startDecode
  | startsEncode (h : s.status.txClosed = false) : CommandEffect s .encode (s.beginIssue 0x02).startEncode
  | seeksRx (off : Half) (h : off.toNat ≤ s.rx.bodyLen.toNat) :
    CommandEffect s (.rxseek off)
      { s with
        rx := { s.rx with pos := off.setWidth 17 }, status := doneStatus 0x08 s, eng := { s.eng with eop := .idle } }
  | seeksTx (off : Half) (h : off.toNat ≤ s.param.txBytes) :
    CommandEffect s (.txseek off)
      { s with
        tx := { s.tx with len := off.setWidth 17 }, status := doneStatus 0x09 s, eng := { s.eng with eop := .idle } }
  | appends (i : Instr) (hi : isPut i = true) (L : List Byte) (h : s.tx.len.toNat + L.length ≤ s.param.txBytes) :
    CommandEffect s i ((s.beginIssue i.opc).appended L)
  | reads (i : Instr) (hi : isGet i = true) (n : Nat) (v : Word) (b : Bool)
    (hb : s.rx.bodyLen.toNat ≤ s.param.rxBytes) (h : s.rx.pos.toNat + n ≤ s.rx.bodyLen.toNat)
    (hv : i ≠ .getca → b = s.status.vnull) :
    CommandEffect s i
      { s with
        value := v
        rx := { s.rx with pos := s.rx.pos + BitVec.ofNat 17 n }
        status := { doneStatus i.opc s with vnull := b }
        eng := { s.eng with eop := .idle } }

theorem putBytes_effect {i : Instr} (hi : isPut i = true) {L : List Byte} {s t : State}
    (h : putBytes L (s.beginIssue i.opc) = .next t) : CommandEffect s i t := by
  rcases putBytes_cases h with ⟨_, rfl⟩ | ⟨hr, rfl⟩
  · exact .rejects i .bufFull (by decide)
  · exact .appends i hi L hr

theorem appendCa_effect {i : Instr} (hi : isPut i = true) {v : Word} {s t : State}
    (h : appendCa v (s.beginIssue i.opc) = .next t) : CommandEffect s i t := by
  rw [appendCa] at h
  split_ifs at h
  · cases h; exact .rejects i .varintOverflow (by decide)
  · exact putBytes_effect hi h

theorem getBytes_effect {i : Instr} (hi : isGet i = true) {n : Nat} {f : List Byte → Word} {s t : State}
    (h : getBytes n (fun L t => (t.setValue (f L)).completeOk) (s.beginIssue i.opc) = .next t) : CommandEffect s i t := by
  obtain ⟨hb, ⟨_, rfl⟩ | ⟨hp, rfl⟩⟩ := getBytes_cases h
  · exact .rejects i .endOfData (by decide)
  · exact .reads i hi n _ s.status.vnull hb hp fun _ => rfl

theorem getVarint_effect {i : Instr} (hi : isGet i = true) {val : Word → Word} {vn : Word → State → Bool}
    (hvn : i ≠ .getca → ∀ u, vn u s = s.status.vnull) {k : Word → State → State} {t : State}
    (hk : ∀ u n, k u ((s.beginIssue i.opc).advancePos n) =
      { s with
        value := val u
        rx := { s.rx with pos := s.rx.pos + BitVec.ofNat 17 n }
        status := { doneStatus i.opc s with vnull := vn u s }
        eng := { s.eng with eop := .idle } })
    (h : getVarint k (s.beginIssue i.opc) = .next t) : CommandEffect s i t := by
  obtain ⟨hb, ⟨e, he, rfl⟩ | ⟨u, n, hu, rfl⟩⟩ := getVarint_cases h
  · refine .rejects i e ?_
    rcases uvDecodeFrom_error he with rfl | rfl <;> decide
  · rw [hk]
    exact .reads i hi n _ _ hb (uvDecode_bound hu).2 fun h => hvn h u

/-- Whatever a command answers is one of its effects. -/
theorem exec_effect {i : Instr} {s t : State} (h : exec i s = .next t) : CommandEffect s i t := by
  cases i with
  | decode =>
    simp only [exec, execDecode] at h
    split_ifs at h with hc
    · cases h; exact .rejects .decode .rxClosedErr (by decide)
    · cases h; exact .startsDecode (by simpa using hc)
  | encode =>
    simp only [exec, execEncode] at h
    split_ifs at h with hc
    · cases h; exact .rejects .encode .txClosedErr (by decide)
    · cases h; exact .startsEncode (by simpa using hc)
  | rxseek off =>
    simp only [exec, execRxseek] at h
    split_ifs at h with hc
    · cases h; exact .rejects (.rxseek off) .endOfData (by decide)
    · cases h; exact .seeksRx off (by simpa using hc)
  | txseek off =>
    simp only [exec, execTxseek] at h
    split_ifs at h with hc
    · cases h; exact .rejects (.txseek off) .bufFull (by decide)
    · cases h; exact .seeksTx off (by simpa using hc)
  | put8 => exact putBytes_effect rfl h
  | put8i imm => exact putBytes_effect rfl h
  | put16 => exact putBytes_effect rfl h
  | put16i imm => exact putBytes_effect rfl h
  | put32 => exact putBytes_effect rfl h
  | put32i imm => exact putBytes_effect rfl h
  | putuv => exact putBytes_effect rfl h
  | putuvi imm => exact putBytes_effect rfl h
  | putca => exact appendCa_effect rfl h
  | putcai imm => exact appendCa_effect rfl h
  | putcan => exact putBytes_effect rfl h
  | get8 => exact getBytes_effect (f := beJoin) rfl h
  | get16 => exact getBytes_effect (f := fun L => ((beJoin L).setWidth 16).signExtend 32) rfl h
  | get32 => exact getBytes_effect (f := beJoin) rfl h
  | getuv =>
    exact getVarint_effect (val := id) (vn := fun _ s => s.status.vnull) (k := fun u t => (t.setValue u).completeOk) rfl
      (fun _ _ => rfl) (fun _ _ => rfl) h
  | getca =>
    refine getVarint_effect (val := fun u => if u = 0 then 0 else u - 1) (vn := fun u _ => decide (u = 0))
      (k := fun u t =>
        if u = 0 then ((t.setVnull true).setValue 0).completeOk else ((t.setVnull false).setValue (u - 1)).completeOk) rfl
      (fun h => absurd rfl h) (fun u n => ?_) h
    by_cases hu : u = 0
    · simp only [hu, if_true]; rfl
    · simp only [hu, if_false, decide_false]; rfl

end Sys2Proof.Machine
end

