-- ==== Sys2Proof/Laws/PerInstr.lean ====
section
/-! SUPPORT. Per-instruction laws. Family OpcField: the OPC field of an instruction's word is its opcode (spec/30_encoding.md
R110, R113). -/
namespace Sys2Proof.Laws.OpcField

/-- The OPC field of the word is the instruction's opcode. -/
def Statement (i : Instr) : Prop := opcOf (encode i) = i.opc

theorem opcOf_commandWord (opc : Byte) (s n : Bool) (imm : Half) : opcOf (commandWord opc s n imm) = opc := by
  ext k hk
  have h (m : Nat) (hm : m ≤ 24) : ¬ 24 + k < m := by omega
  have e : 24 + k - 16 - 6 - 1 - 1 = k := by omega
  have h1 : ¬ 24 + k - 16 < 6 := by omega
  have h2 : ¬ 24 + k - 16 - 6 < 1 := by omega
  have h3 : ¬ 24 + k - 16 - 6 - 1 < 1 := by omega
  simp only [opcOf, commandWord, BitVec.getElem_extractLsb', BitVec.getLsbD_append, h 16 (by omega), h1, h2, h3, e,
    if_false, BitVec.getLsbD_eq_getElem, hk]

theorem decode : Statement .decode := opcOf_commandWord _ _ _ _
theorem encode : Statement .encode := opcOf_commandWord _ _ _ _
theorem rxseek (off : Half) : Statement (.rxseek off) := opcOf_commandWord _ _ _ _
theorem txseek (off : Half) : Statement (.txseek off) := opcOf_commandWord _ _ _ _
theorem put8 : Statement .put8 := opcOf_commandWord _ _ _ _
theorem put8i (imm : Half) : Statement (.put8i imm) := opcOf_commandWord _ _ _ _
theorem put16 : Statement .put16 := opcOf_commandWord _ _ _ _
theorem put16i (imm : Half) : Statement (.put16i imm) := opcOf_commandWord _ _ _ _
theorem put32 : Statement .put32 := opcOf_commandWord _ _ _ _
theorem put32i (imm : Half) : Statement (.put32i imm) := opcOf_commandWord _ _ _ _
theorem putuv : Statement .putuv := opcOf_commandWord _ _ _ _
theorem putuvi (imm : Half) : Statement (.putuvi imm) := opcOf_commandWord _ _ _ _
theorem putca : Statement .putca := opcOf_commandWord _ _ _ _
theorem putcai (imm : Half) : Statement (.putcai imm) := opcOf_commandWord _ _ _ _
theorem putcan : Statement .putcan := opcOf_commandWord _ _ _ _
theorem get8 : Statement .get8 := opcOf_commandWord _ _ _ _
theorem get16 : Statement .get16 := opcOf_commandWord _ _ _ _
theorem get32 : Statement .get32 := opcOf_commandWord _ _ _ _
theorem getuv : Statement .getuv := opcOf_commandWord _ _ _ _
theorem getca : Statement .getca := opcOf_commandWord _ _ _ _

end Sys2Proof.Laws.OpcField
end

