-- ==== Sys2Proof/Laws/Step.lean ====
section
/-! SUPPORT. Everything a host access and a step can do, said once: the targets of the address map and the inversion lemmas of
`hostWrite` and `step`. -/
namespace Sys2Proof.Machine

/-! ### The address map -/

/-- A register that an address selects stands at that address. -/
theorem Reg.at?_offset {a : Nat} {r : Reg} (h : Reg.at? a = some r) : r.offset = a := by
  have := List.find?_some h
  simpa using this

theorem Reg.at?_of_offset (r : Reg) : Reg.at? r.offset = some r := by cases r <;> rfl

/-- Where no register stands. -/
theorem Reg.at?_eq_none {a : Nat} (h : 0x40 ≤ a ∨ a % 4 ≠ 0) : Reg.at? a = none := by
  rw [Reg.at?, List.find?_eq_none]
  intro r _
  have : r.offset < 0x40 ∧ r.offset % 4 = 0 := by cases r <;> decide
  simp only [beq_iff_eq]
  omega

theorem target_reg (p : Param) (r : Reg) (addr : Addr) (h : addr.toNat = r.offset) :
    target p addr .four = some (.reg r) := by
  have : r.offset < 0x1000 := by cases r <;> decide
  simp [target, h, this, Reg.at?_of_offset]

theorem target_rxBuf (p : Param) (addr : Addr) (n : Width) (o : Nat) (h : addr.toNat = rxBase + o)
    (hb : o + n.bytes ≤ p.rxBytes) (ha : o % n.bytes = 0) : target p addr n = some (.rxBuf o) := by
  have hn : n = .one ∨ n = .two ∨ n = .four := by cases n <;> simp
  have h2 : ¬ rxBase + o < 0x1000 := by simp only [rxBase]; omega
  have h3 : (rxBase + o) % n.bytes = 0 := by
    rcases hn with rfl | rfl | rfl <;> simp only [Width.bytes, rxBase] at * <;> omega
  rw [target]
  simp only [h]
  rw [if_neg h2, if_pos ⟨by omega, by omega, h3⟩]
  rw [Nat.add_sub_cancel_left]

theorem target_txBuf (p : Param) (addr : Addr) (n : Width) (o : Nat) (h : addr.toNat = txBase + o)
    (hb : o + n.bytes ≤ p.txBytes) (ha : o % n.bytes = 0) : target p addr n = some (.txBuf o) := by
  have hn : n = .one ∨ n = .two ∨ n = .four := by cases n <;> simp
  have h1 : 1 ≤ n.bytes := by rcases hn with rfl | rfl | rfl <;> decide
  have h2 : ¬ txBase + o < 0x1000 := by simp only [txBase]; omega
  have h3 : (txBase + o) % n.bytes = 0 := by
    rcases hn with rfl | rfl | rfl <;> simp only [Width.bytes, txBase] at * <;> omega
  have h4 : ¬ (rxBase ≤ txBase + o ∧ txBase + o + n.bytes ≤ rxBase + p.rxBytes ∧ (txBase + o) % n.bytes = 0) := by
    have := p.rxBytes_le
    simp only [rxBase, txBase]; omega
  rw [target]
  simp only [h]
  rw [if_neg h2, if_neg h4, if_pos ⟨by omega, by omega, h3⟩]
  rw [Nat.add_sub_cancel_left]

/-- A host read inside RXBUF. -/
theorem State.hostRead_rxBuf (s : State) (addr : Addr) (n : Width) (o : Nat) (h : addr.toNat = rxBase + o)
    (hb : o + n.bytes ≤ s.param.rxBytes) (ha : o % n.bytes = 0) :
    s.hostRead addr n = .okRead (beJoin (s.rxBytesAt o n.bytes)) := by
  rw [State.hostRead, target_rxBuf s.param addr n o h hb ha]

/-- A host read inside TXBUF. -/
theorem State.hostRead_txBuf (s : State) (addr : Addr) (n : Width) (o : Nat) (h : addr.toNat = txBase + o)
    (hb : o + n.bytes ≤ s.param.txBytes) (ha : o % n.bytes = 0) :
    s.hostRead addr n = .okRead (beJoin (s.txBytesAt o n.bytes)) := by
  rw [State.hostRead, target_txBuf s.param addr n o h hb ha]

/-- What a target says of the address. -/
theorem target_cases {p : Param} {addr : Addr} {n : Width} {x : Target} (h : target p addr n = some x) :
    (∃ r, x = .reg r ∧ n = .four ∧ addr.toNat = r.offset) ∨
    (∃ o, x = .rxBuf o ∧ addr.toNat = rxBase + o ∧ o + n.bytes ≤ p.rxBytes) ∨
    (∃ o, x = .txBuf o ∧ addr.toNat = txBase + o ∧ o + n.bytes ≤ p.txBytes) := by
  simp only [target] at h
  split_ifs at h with h1 h2 h3 h4
  · left
    match hr : Reg.at? addr.toNat with
    | none => rw [hr] at h; cases h
    | some r =>
      rw [hr] at h; cases h
      exact ⟨r, rfl, h2, (Reg.at?_offset hr).symm⟩
  · cases h; exact .inr (.inl ⟨_, rfl, by omega, by omega⟩)
  · cases h; exact .inr (.inr ⟨_, rfl, by omega, by omega⟩)

/-! ### Host writes -/

/-- A host write: a register address. -/
theorem hostWrite_reg (r : Reg) (addr : Addr) (v : Word) (s : State) (h : addr.toNat = r.offset) :
    hostWrite addr .four v s = writeReg r v (s.respond .okWrite) := by
  rw [hostWrite, target_reg s.param r addr h]

/-- A host write that reaches nothing. -/
theorem hostWrite_none {addr : Addr} {n : Width} {v : Word} {s : State} (h : target s.param addr n = none) :
    hostWrite addr n v s = .next (s.respond .busErr) := by
  rw [hostWrite, h]

/-- A host write inside TXBUF while BUSY = 0. -/
theorem hostWrite_txBuf (s : State) (addr : Addr) (n : Width) (v : Word) (o : Nat) (h : addr.toNat = txBase + o)
    (hb : o + n.bytes ≤ s.param.txBytes) (ha : o % n.bytes = 0) (hbusy : s.busy = false) :
    hostWrite addr n v s = .next ((s.respond .okWrite).setTxBytes o (beBytes n.bytes v)) := by
  rw [hostWrite, target_txBuf s.param addr n o h hb ha]
  simp [hbusy]

/-- Everything a host write can do. -/
inductive WriteEffect (addr : Addr) (n : Width) (v : Word) (s : State) : State → Prop where
  | busErr : WriteEffect addr n v s (s.respond .busErr)
  | ignored : WriteEffect addr n v s (s.respond .okWrite)
  | ctrl (hn : n = .four) (ha : addr = 0x008) : WriteEffect addr n v s ((s.respond .okWrite).writeCtrl v)
  | refused (hb : s.busy = true) : WriteEffect addr n v s (s.respond .okWrite).rejectWrite
  | issues (hb : s.busy = false) (hn : n = .four) (ha : addr = 0x010) (t : State)
    (h : issue v (s.respond .okWrite) = .next t) : WriteEffect addr n v s t
  | value (hb : s.busy = false) : WriteEffect addr n v s { s.respond .okWrite with value := v }
  | txCorrId (hb : s.busy = false) :
    WriteEffect addr n v s { s.respond .okWrite with tx := { s.tx with corrId := v } }
  | txBuf (hb : s.busy = false) (o : Nat) (ho : o + n.bytes ≤ s.param.txBytes) :
    WriteEffect addr n v s ((s.respond .okWrite).setTxBytes o (beBytes n.bytes v))

theorem hostWrite_effect {addr : Addr} {n : Width} {v : Word} {s t : State} (h : hostWrite addr n v s = .next t) :
    WriteEffect addr n v s t := by
  match ht : target s.param addr n with
  | none => rw [hostWrite_none ht] at h; cases h; exact .busErr
  | some x =>
    rw [hostWrite, ht] at h
    rcases target_cases ht with ⟨r, rfl, hn, ha⟩ | ⟨o, rfl, _, _⟩ | ⟨o, rfl, _, ho⟩
    · have hbs : (s.respond .okWrite).busy = s.busy := rfl
      have hadd (k : Nat) (hk : r.offset = k) (h18 : k < 2 ^ 18) : addr = BitVec.ofNat 18 k := by
        apply BitVec.eq_of_toNat_eq
        rw [ha, hk, BitVec.toNat_ofNat, Nat.mod_eq_of_lt h18]
      cases r <;> simp only [writeReg, Reg.access, hbs] at h
      case ctrl => cases h; exact .ctrl hn (hadd 8 rfl (by decide))
      case cmd =>
        split_ifs at h with hb
        · cases h; exact .refused hb
        · exact .issues (by simpa using hb) hn (hadd 16 rfl (by decide)) t h
      case value =>
        split_ifs at h with hb
        · cases h; exact .refused hb
        · cases h; exact .value (by simpa using hb)
      case txCorrId =>
        split_ifs at h with hb
        · cases h; exact .refused hb
        · cases h; exact .txCorrId (by simpa using hb)
      all_goals (cases h; exact .ignored)
    · cases h; exact .busErr
    · simp only at h
      split_ifs at h with hb
      · cases h; exact .refused hb
      · cases h; exact .txBuf (by simpa using hb) o ho

/-- What a host write of a word to CMD while BUSY = 0 can do. -/
theorem issue_effect {w : Word} {s t : State} (h : issue w s = .next t) :
    (∃ i, decode w = .ok i ∧ CommandEffect s i t) ∨ ((∃ e, decode w = .error e) ∧ t = rejected (opcOf w) .illegalCmd s) := by
  rw [issue] at h
  match hd : decode w with
  | .ok i => rw [hd] at h; exact .inl ⟨i, rfl, exec_effect h⟩
  | .error e => rw [hd] at h; cases h; exact .inr ⟨⟨e, rfl⟩, rfl⟩

/-! ### Steps -/

/-- Everything a turn can do. -/
inductive TurnEffect (s : State) : Turn → State → Prop where
  | reads (addr : Addr) (n : Width) : TurnEffect s (.host (.read addr n)) (s.respond (s.hostRead addr n))
  | writes (addr : Addr) (n : Width) (v : Word) (t : State) (h : WriteEffect addr n v s t) :
    TurnEffect s (.host (.write addr n v)) t
  | engine (t : State) (h : engineTurn s = .next t) : TurnEffect s .engine t
  | rxsrc (e : RxEvent) : TurnEffect s (.rxsrc e) (s.rxArrive e)
  | txsink (a : TxAnswer) : TurnEffect s (.txsink a) (s.txReadyWith a)
  | attach : TurnEffect s .attach s.attachStreams
  | reset : TurnEffect s .reset s.resetBlock

theorem runTurn_effect {u : Turn} {s t : State} (h : runTurn u s = .next t) : TurnEffect s u t := by
  cases u with
  | host a =>
    cases a with
    | read addr n => cases h; exact .reads addr n
    | write addr n v => exact .writes addr n v t (hostWrite_effect h)
  | engine => exact .engine t h
  | rxsrc e => cases h; exact .rxsrc e
  | txsink a => cases h; exact .txsink a
  | attach => cases h; exact .attach
  | reset => cases h; exact .reset

/-- Taking a turn off the agenda, or drawing one, changes the environment's agenda and draws only. -/
theorem State.afterTurn_eq (s : State) :
    ∃ a d, s.afterTurn = { s with env := { s.env with agenda := a, draws := d } } := by
  unfold State.afterTurn
  split
  · exact ⟨_, _, rfl⟩
  · exact ⟨_, _, rfl⟩

/-- A step is a turn's effect on the state it is taken in. -/
theorem step_effect {s t : State} (h : step s = .next t) :
    ∃ a d, s.afterTurn = { s with env := { s.env with agenda := a, draws := d } } ∧
      TurnEffect { s with env := { s.env with agenda := a, draws := d } } s.nextTurn t := by
  obtain ⟨a, d, hs⟩ := s.afterTurn_eq
  exact ⟨a, d, hs, hs ▸ runTurn_effect h⟩

end Sys2Proof.Machine
end

