-- ==== Sys2Proof/Tests/Slice0.lean ====
section
/-! SUPPORT. Tests of the model with values taken from the spec's encodings (spec/30_encoding.md) and test vectors
(spec/95_test_vectors.md, named at each test), and for every statement a concrete case that meets its hypotheses. -/
namespace Sys2Proof.Tests
open Sys2Proof.Machine

/-! ### States and checks the tests share -/

/-- Buffers of 16 bytes, the smallest of spec/00_scope.md R5. -/
def small : State := { State.reset with param := ⟨⟨4, by decide⟩, ⟨4, by decide⟩⟩ }

/-- A state whose TX_LEN is `len` and whose VALUE is `v`. -/
def withTx (len : Nat) (v : Word) : State :=
  { State.reset with value := v, tx := { State.reset.tx with len := BitVec.ofNat 17 len } }

/-- A state whose request body is `body`, VALUE 0xCAFE, RX_POS 0, as the vectors L2.R start. -/
def withBodyBytes (body : List Byte) : State :=
  { State.reset with
    value := 0xCAFE
    rx := { State.reset.rx with bodyLen := BitVec.ofNat 17 body.length }
    mem := Memory.writeAll [] rxBase body }

/-- A DECODE that has consumed `k` bytes of a frame whose size field is `size`, with `es` offered. -/
def decoding (k : Nat) (size : Word) (es : List RxEvent) : State :=
  { small with
    rx := { small.rx with count := BitVec.ofNat 17 k, size := size }
    eng := { small.eng with eop := .dec }
    env := { small.env with rxPending := es } }

/-- An ENCODE of `len` body bytes that has sent `k` bytes, with TXSINK's answer. -/
def encoding (k len : Nat) (a : Option TxAnswer) : State :=
  { small with
    tx := ⟨7, BitVec.ofNat 17 len, BitVec.ofNat 17 k⟩
    eng := ⟨.enc, 0, BitVec.ofNat 17 len, 7, BitVec.ofNat 32 (4 + len)⟩
    env := { small.env with txReady := a } }

/-- `s` with turns placed. -/
def placed (ts : List Turn) (s : State) : State := { s with env := { s.env with agenda := ts } }

/-- The answer is a next state of which `p` holds. -/
def nextAnd (o : Out) (p : State → Bool) : Bool :=
  match o with
  | .next t => p t
  | .fault _ => false
  | .refused _ => false

/-- After a PUT from `s`: the bytes written, TX_LEN and STATUS. -/
def putGives (i : Instr) (s : State) (bytes : List Byte) (len : Nat) (status : Word) : Bool :=
  nextAnd (exec i s) fun t =>
    t.tx.len.toNat == len && t.statusWord == status &&
      t.mem == Memory.writeAll s.mem (txBase + s.tx.len.toNat) bytes

/-- After a GET or RXSEEK from `s`: VALUE, RX_POS and STATUS. -/
def getGives (i : Instr) (s : State) (value : Word) (pos : Nat) (status : Word) : Bool :=
  nextAnd (exec i s) fun t => t.value == value && t.rx.pos.toNat == pos && t.statusWord == status

/-! ### Well-formedness and decoding -/

/-- The one check of well-formedness refuses an immediate with IMM[15:8] ≠ 0 (R112). -/
theorem test_put8i_illFormed : (Instr.put8i 0x0100).wellFormed = false := by decide

/-- Words written out bit by bit from R110, R111 and R113: OPC, S, N, RSV, IMM. -/
theorem test_decode_frame :
    decode (0b00000001#8 ++ 0b0#1 ++ 0b0#1 ++ 0b000000#6 ++ 0b0000000000000000#16) = .ok .decode ∧
    decode (0b00000010#8 ++ 0b0#1 ++ 0b0#1 ++ 0b000000#6 ++ 0b0000000000000000#16) = .ok .encode := by decide

theorem test_decode_seeks :
    decode (0b00001000#8 ++ 0b0#1 ++ 0b0#1 ++ 0b000000#6 ++ 0b0000000000000110#16) = .ok (.rxseek 6) ∧
    decode (0b00001001#8 ++ 0b0#1 ++ 0b0#1 ++ 0b000000#6 ++ 0b1000000000000001#16) = .ok (.txseek 0x8001) := by decide

theorem test_decode_put8 :
    decode (0b00010000#8 ++ 0b0#1 ++ 0b0#1 ++ 0b000000#6 ++ 0b0000000000000000#16) = .ok .put8 ∧
    decode (0b00010000#8 ++ 0b1#1 ++ 0b0#1 ++ 0b000000#6 ++ 0b0000000001000001#16) = .ok (.put8i 0x41) := by decide

theorem test_decode_put16 :
    decode (0b00010001#8 ++ 0b0#1 ++ 0b0#1 ++ 0b000000#6 ++ 0b0000000000000000#16) = .ok .put16 ∧
    decode (0b00010001#8 ++ 0b1#1 ++ 0b0#1 ++ 0b000000#6 ++ 0b0000000000010010#16) = .ok (.put16i 0x12) := by decide

theorem test_decode_put32 :
    decode (0b00010010#8 ++ 0b0#1 ++ 0b0#1 ++ 0b000000#6 ++ 0b0000000000000000#16) = .ok .put32 ∧
    decode (0b00010010#8 ++ 0b1#1 ++ 0b0#1 ++ 0b000000#6 ++ 0b1111111111111111#16) = .ok (.put32i 0xFFFF) := by decide

theorem test_decode_putuv :
    decode (0b00010011#8 ++ 0b0#1 ++ 0b0#1 ++ 0b000000#6 ++ 0b0000000000000000#16) = .ok .putuv ∧
    decode (0b00010011#8 ++ 0b1#1 ++ 0b0#1 ++ 0b000000#6 ++ 0b0000000100101100#16) = .ok (.putuvi 300) := by decide

theorem test_decode_putca :
    decode (0b00010100#8 ++ 0b0#1 ++ 0b0#1 ++ 0b000000#6 ++ 0b0000000000000000#16) = .ok .putca ∧
    decode (0b00010100#8 ++ 0b1#1 ++ 0b0#1 ++ 0b000000#6 ++ 0b0000000000000010#16) = .ok (.putcai 2) ∧
    decode (0b00010100#8 ++ 0b0#1 ++ 0b1#1 ++ 0b000000#6 ++ 0b0000000000000000#16) = .ok .putcan := by decide

theorem test_decode_gets :
    decode (0b00100000#8 ++ 0b0#1 ++ 0b0#1 ++ 0b000000#6 ++ 0b0000000000000000#16) = .ok .get8 ∧
    decode (0b00100001#8 ++ 0b0#1 ++ 0b0#1 ++ 0b000000#6 ++ 0b0000000000000000#16) = .ok .get16 ∧
    decode (0b00100010#8 ++ 0b0#1 ++ 0b0#1 ++ 0b000000#6 ++ 0b0000000000000000#16) = .ok .get32 ∧
    decode (0b00100011#8 ++ 0b0#1 ++ 0b0#1 ++ 0b000000#6 ++ 0b0000000000000000#16) = .ok .getuv ∧
    decode (0b00100100#8 ++ 0b0#1 ++ 0b0#1 ++ 0b000000#6 ++ 0b0000000000000000#16) = .ok .getca := by decide

/-- Illegal words, with the reason (R114; vectors I1 to I10). -/
theorem test_decode_illegal :
    decode 0x10800100 = .error (.wrongFields 0x10) ∧ decode 0x10C00000 = .error (.wrongFields 0x10) ∧
    decode 0x11400000 = .error (.wrongFields 0x11) ∧ decode 0x14C00000 = .error (.wrongFields 0x14) ∧
    decode 0x01000001 = .error (.wrongFields 0x01) ∧ decode 0x20800000 = .error (.wrongFields 0x20) ∧
    decode 0x13810000 = .error (.wrongFields 0x13) ∧ decode 0x00000000 = .error (.reservedOpcode 0x00) ∧
    decode 0x03000000 = .error (.reservedOpcode 0x03) ∧ decode 0xFF000000 = .error (.reservedOpcode 0xFF) := by decide

/-- The decoder reads the opcode table's numbering, and a word placed is the first command step issues after reset. -/
theorem test_withFetchWord :
    decodeTableWord 32 0x10800061 = some (.put8i 0x61) ∧
    nextAnd (step (State.reset.withFetchWord 32 0x10800061)) (fun t => t.statusWord == 0x00100002#32) = true := by decide

/-! ### The commands, from the vectors of spec/95_test_vectors.md -/

/-- A DECODE on an open channel starts (L3.4), on a closed one ends with E6 (D12). -/
theorem test_decode_issue :
    nextAnd (exec .decode State.reset) (fun t => t.statusWord == 0x00010001#32) = true ∧
    nextAnd (exec .decode { State.reset with status := { State.reset.status with rxClosed := true } })
      (fun t => t.statusWord == 0x00010164#32) = true := by decide

/-- An ENCODE latches its operands (E8), on a closed channel it ends with E8 (vector E5). -/
theorem test_encode_issue :
    nextAnd (exec .encode (withTx 2 0)) (fun t => t.statusWord == 0x00020001#32 && t.eng.emsz == 6#32) = true ∧
    nextAnd (exec .encode { State.reset with status := { State.reset.status with txClosed := true } })
      (fun t => t.statusWord == 0x00020284#32) = true := by decide

/-- T18, T19. -/
theorem test_txseek :
    putGives (.txseek 4096) (withTx 0 0) [] 4096 0x00090002 = true ∧
    putGives (.txseek 4097) (withTx 5 0) [] 5 0x000900B4 = true := by decide

/-- T2, T14. -/
theorem test_put8 :
    putGives .put8 (withTx 0 0x12345678) [0x78] 1 0x00100002 = true ∧
    putGives .put8 (withTx 4096 0x12345678) [] 4096 0x001000B4 = true := by decide

/-- T1. -/
theorem test_put8i : putGives (.put8i 0x61) (withTx 0 0) [0x61] 1 0x00100002 = true := by decide

/-- T4, T13. -/
theorem test_put16 :
    putGives .put16 (withTx 0 0xFFFFFFFF) [0xFF, 0xFF] 2 0x00110002 = true ∧
    putGives .put16 (withTx 4095 0xFFFFFFFF) [] 4095 0x001100B4 = true := by decide

/-- T21, at an odd cursor. -/
theorem test_put16i : putGives (.put16i 0xABCD) (withTx 1 0) [0xAB, 0xCD] 3 0x00110002 = true := by decide

/-- T5. -/
theorem test_put32 : putGives .put32 (withTx 0 0xDEADBEEF) [0xDE, 0xAD, 0xBE, 0xEF] 4 0x00120002 = true := by decide

/-- T7. -/
theorem test_put32i : putGives (.put32i 0xFFFF) (withTx 0 0) [0x00, 0x00, 0xFF, 0xFF] 4 0x00120002 = true := by decide

/-- T15, T16. -/
theorem test_putuv :
    putGives .putuv (withTx 4092 0xFFFFFFFF) [] 4092 0x001300B4 = true ∧
    putGives .putuv (withTx 4091 0xFFFFFFFF) [0xFF, 0xFF, 0xFF, 0xFF, 0x0F] 4096 0x00130002 = true := by decide

/-- The example of R186, and its largest operand. -/
theorem test_putuvi :
    putGives (.putuvi 300) (withTx 0 0) [0xAC, 0x02] 2 0x00130002 = true ∧
    putGives (.putuvi 0xFFFF) (withTx 0 0) [0xFF, 0xFF, 0x03] 3 0x00130002 = true := by decide

/-- L1.3 with N = 127, and T17: overflow is checked before room. -/
theorem test_putca :
    putGives .putca (withTx 0 127) [0x80, 0x01] 2 0x00140002 = true ∧
    putGives .putca (withTx 4096 0xFFFFFFFF) [] 4096 0x001400C4 = true := by decide

/-- T10, T11. -/
theorem test_putcai :
    putGives (.putcai 0) (withTx 0 0) [0x01] 1 0x00140002 = true ∧
    putGives (.putcai 0xFFFF) (withTx 0 0) [0x80, 0x80, 0x04] 3 0x00140002 = true := by decide

/-- T9. -/
theorem test_putcan : putGives .putcan (withTx 0 5) [0x00] 1 0x00140002 = true := by decide

/-- The body of G1. -/
def bodyG1 : List Byte := [0x00, 0x00, 0x00, 0x01, 0x00, 0x03, 0x61, 0x62, 0x63]

/-- `s` with RX_POS at `p`. -/
def atPos (p : Nat) (s : State) : State := { s with rx := { s.rx with pos := BitVec.ofNat 17 p } }

/-- G4. -/
theorem test_rxseek :
    getGives (.rxseek 9) (withBodyBytes bodyG1) 0xCAFE 9 0x00080002 = true ∧
    getGives (.rxseek 10) (atPos 9 (withBodyBytes bodyG1)) 0xCAFE 9 0x000800A4 = true := by decide

/-- G6. -/
theorem test_get8 :
    getGives .get8 (withBodyBytes [0xFF]) 0xFF 1 0x00200002 = true ∧
    getGives .get8 (atPos 1 (withBodyBytes [0xFF])) 0xCAFE 1 0x002000A4 = true := by decide

/-- G5, G3. -/
theorem test_get16 :
    getGives .get16 (withBodyBytes [0x80, 0x00]) 0xFFFF8000 2 0x00210002 = true ∧
    getGives .get16 (atPos 8 (withBodyBytes bodyG1)) 0xCAFE 8 0x002100A4 = true := by decide

/-- G1, G2. -/
theorem test_get32 :
    getGives .get32 (withBodyBytes bodyG1) 1 4 0x00220002 = true ∧
    getGives .get32 (atPos 6 (withBodyBytes bodyG1)) 0xCAFE 6 0x002200A4 = true := by decide

/-- The table of GETUV: the largest value, a form that is not the shortest, an overflow and an end. -/
theorem test_getuv :
    getGives .getuv (withBodyBytes [0xFF, 0xFF, 0xFF, 0xFF, 0x0F]) 0xFFFFFFFF 5 0x00230002 = true ∧
    getGives .getuv (withBodyBytes [0x80, 0x00]) 0 2 0x00230002 = true ∧
    getGives .getuv (withBodyBytes [0xFF, 0xFF, 0xFF, 0xFF, 0x10]) 0xCAFE 0 0x002300C4 = true ∧
    getGives .getuv (withBodyBytes [0xFF, 0xFF, 0xFF, 0xFF]) 0xCAFE 0 0x002300A4 = true := by decide

/-- The table of GETCA: absent, empty, 127 elements, and VNULL kept by an error. -/
theorem test_getca :
    getGives .getca (withBodyBytes [0x00]) 0 1 0x00240402 = true ∧
    getGives .getca (withBodyBytes [0x01]) 0 1 0x00240002 = true ∧
    getGives .getca (withBodyBytes [0x80, 0x01]) 0x7F 2 0x00240002 = true ∧
    getGives .getca { withBodyBytes [] with status := { State.reset.status with vnull := true } } 0xCAFE 0 0x002404A4
      = true := by decide

/-- The unsigned varint vectors of L2.T. -/
theorem test_uvBytes :
    uvBytes 0 = [0x00] ∧ uvBytes 127 = [0x7F] ∧ uvBytes 128 = [0x80, 0x01] ∧ uvBytes 16383 = [0xFF, 0x7F] ∧
    uvBytes 16384 = [0x80, 0x80, 0x01] ∧ uvBytes 0x1FFFFF = [0xFF, 0xFF, 0x7F] ∧
    uvBytes 0x200000 = [0x80, 0x80, 0x80, 0x01] ∧ uvBytes 0x0FFFFFFF = [0xFF, 0xFF, 0xFF, 0x7F] ∧
    uvBytes 0x10000000 = [0x80, 0x80, 0x80, 0x80, 0x01] := by decide

/-! ### The ENGINE, the host port and the assembler -/

/-- D2: a size of 7 is MALFORMED_HEADER at frame byte 3. -/
theorem test_engine_malformed :
    nextAnd (runTurn .engine { decoding 3 0 [.byte 0x07, .byte 0x00] with
      status := { State.reset.status with lastOpc := 0x01 } })
      (fun t => t.statusWord == 0x00010124#32 && t.rx.size == 7#32 && t.rx.count.toNat == 4) = true := by decide

/-- D13: the sign of a header field is copied, the field is not. -/
theorem test_engine_apiVersion :
    nextAnd (runTurn .engine { decoding 7 8 [.byte 0x00] with eng := ⟨.dec, 0x80, 0, 0, 0⟩ })
      (fun t => t.readReg .rxApiVersion == 0xFFFF8000#32 && t.busy) = true := by decide

/-- D1: frame byte 11 of an empty body ends the DECODE. -/
theorem test_engine_lastByte :
    nextAnd (runTurn .engine { decoding 11 8 [.byte 0x01] with status := { State.reset.status with lastOpc := 0x01 } })
      (fun t => t.statusWord == 0x00010002#32 && t.tx.corrId == 1#32 && t.rx.count.toNat == 12) = true := by decide

/-- The example of R160: the tenth byte of a frame with two body bytes ends the ENCODE. -/
theorem test_engine_encode :
    nextAnd (runTurn .engine { encoding 9 2 (some .ok) with
      mem := [(txBase, 0), (txBase + 1, 0)], status := { State.reset.status with lastOpc := 0x02 } })
      (fun t => t.statusWord == 0x00020002#32 && t.tx.count.toNat == 10 && t.env.txSent == [0x00]) = true := by decide

/-- M1 to M3, M7, M14 to M17. -/
theorem test_host_reads :
    State.reset.hostRead 0x000 .four = .okRead 0x4B464331 ∧ State.reset.hostRead 0x004 .four = .okRead 0x00000C0C ∧
    State.reset.hostRead 0x010 .four = .okRead 0 ∧ State.reset.hostRead 0x20001 .two = .busErr ∧
    State.reset.hostRead 0x008 .two = .busErr ∧ State.reset.hostRead 0x00A .four = .busErr ∧
    State.reset.hostRead 0x040 .four = .busErr ∧ State.reset.hostRead 0x30000 .four = .busErr := by decide

/-- M4, M5, M11: big-endian lanes, upper bits ignored. -/
theorem test_host_buffer :
    let s := { State.reset with mem := Memory.writeAll [] txBase [0xAC, 0x02, 0x7F, 0x00, 0x00, 0x12] }
    s.hostRead 0x20000 .four = .okRead 0xAC027F00 ∧ s.hostRead 0x20004 .two = .okRead 0x12 ∧
    nextAnd (hostTurn (.write 0x20002 .two 0x1234ABCD) s)
      (fun t => t.mem == Memory.writeAll [] txBase [0xAC, 0x02, 0xAB, 0xCD, 0x00, 0x12]) = true := by decide

/-- M12, M18 and I14: RXBUF is read-only, an RO register ignores a write, a write while BUSY only sets WREJ. -/
theorem test_host_writes :
    nextAnd (hostTurn (.write 0x10000 .one 0) State.reset) (fun t => t.env.hostResp == some .busErr) = true ∧
    nextAnd (hostTurn (.write 0x018 .four 5) State.reset)
      (fun t => t.env.hostResp == some .okWrite && t.statusWord == 0#32 && t.rx.size == 0#32) = true ∧
    nextAnd (hostTurn (.write 0x014 .four 5) (decoding 0 0 []))
      (fun t => t.value == 0#32 && t.statusWord == 0x00000009#32) = true := by decide

/-- C2 and C3: IRQ while IE = 1, and CLR. -/
theorem test_irq_and_clear :
    nextAnd (exec (.put8i 1) { State.reset with ie := true }) (fun t => t.statusWord == 0x00100802#32 && t.irq) = true ∧
    nextAnd (hostTurn (.write 0x008 .four 0x6) { State.reset with
        ie := true, status := ⟨true, false, false, .noError, false, false, false, 0x10⟩ })
      (fun t => t.statusWord == 0x00100000#32 && t.ctrlWord == 0x4#32 && !t.irq) = true := by decide

/-- C7: SRST with CLR and IE leaves every register at reset, IE 0. -/
theorem test_soft_reset :
    nextAnd (hostTurn (.write 0x008 .four 0x7) (decoding 6 0x0A []))
      (fun t => t.statusWord == 0#32 && t.ctrlWord == 0#32 && t.rx == RxRegs.reset && t.eng == Engine.reset) = true := by
  decide

/-- The examples of R117, a literal out of range, a comment, and T8. -/
theorem test_assembler :
    assemble "PUT16I 0x0012".toList = .ok (some (.put16i 0x12)) ∧ assemble "PUTCAN ; absent".toList = .ok (some .putcan) ∧
    assemble "PUT8I 256".toList = .error .outOfRange ∧ assemble "DECODE 1".toList = .error .operandNotAllowed ∧
    assemble "PUTI16 -1".toList = .ok (some (.put16i 0xFFFF)) := by decide

/-- Writing keeps the canonical form and the reset memory has it. -/
theorem test_memory_form :
    Memory.wf State.reset.mem ∧ Memory.wf (Memory.write [(3, 1), (7, 2)] 5 9) ∧
    Memory.write [(3, 1), (7, 2)] 5 9 = [(3, 1), (5, 9), (7, 2)] ∧ Memory.write [(3, 1)] 3 2 = [(3, 2)] := by decide

/-! ### Witnesses: for each statement with hypotheses, a case that meets them, at the edges of each clause -/

theorem witness_DecodeOfEncode : (Instr.put8i 0x00FF).wellFormed = true ∧ (Instr.txseek 0xFFFF).wellFormed = true := by decide

theorem witness_EncodeOfDecode : decode 0x108000FF = .ok (.put8i 0x00FF) ∧ decode 0x14400000 = .ok .putcan := by decide

theorem witness_DecoderFindsTheRow :
    (∃ r ∈ opcodeMap, (0x0900FFFF : Word) &&& r.mask = r.pattern) ∧
    (∀ r ∈ opcodeMap, (0x10800100 : Word) &&& r.mask ≠ r.pattern) ∧
    ((0x25000000 : Word) >>> 24).toNat = 0x25 ∧ ((0x1F000000 : Word) >>> 24).toNat = 0x1F := by decide

theorem witness_StepTakesTheNextTurn :
    (placed [.engine] State.reset).env.agenda = .engine :: [] ∧ State.reset.env.agenda = [] := by decide

theorem witness_StepIssuesTheCommand :
    (placed [.host (.write 0x010 .four 0x20000000)] State.reset).env.agenda = .host (.write 0x010 .four 0x20000000) :: [] ∧
    (placed [.host (.write 0x010 .four 0x20000000)] State.reset).busy = false ∧ decode 0x20000000 = .ok .get8 ∧
    (placed [.host (.write 0x010 .four 0)] State.reset).busy = false ∧ decode 0 = .error (.reservedOpcode 0) ∧
    (placed [.host (.write 0x010 .four 0)] (decoding 0 0 [])).busy = true := by decide

theorem witness_IllegalWordEnds : ∀ r ∈ opcodeMap, (0x01000001 : Word) &&& r.mask ≠ r.pattern := by decide

theorem witness_EveryCommandFrame : ∃ t, exec .get8 State.reset = .next t := ⟨_, rfl⟩

theorem witness_NonStoringFrame :
    (∃ t, exec .decode State.reset = .next t) ∧ (∃ t, exec .encode State.reset = .next t) ∧
    (∃ t, exec (.rxseek 0) State.reset = .next t) ∧ (∃ t, exec (.txseek 4096) State.reset = .next t) ∧
    ∃ t, exec .getca (withBodyBytes [0x00]) = .next t :=
  ⟨⟨_, rfl⟩, ⟨_, rfl⟩, ⟨_, rfl⟩, ⟨_, rfl⟩, ⟨_, rfl⟩⟩

theorem witness_PutFrame : (∃ t, exec .put32 (withTx 4092 1) = .next t) ∧ ∃ t, exec .putcan (withTx 4096 1) = .next t :=
  ⟨⟨_, rfl⟩, ⟨_, rfl⟩⟩

/-- TXSEEK at and above the buffer's size. -/
theorem witness_TxseekSetsTheCursor :
    (16#16 : Half).toNat ≤ small.param.txBytes ∧ small.param.txBytes < (17#16 : Half).toNat := by decide

theorem witness_Put8AppendsOneByte :
    (0x00FF#16 : Half).toNat < 256 ∧ (withTx 4095 0).tx.len.toNat + 1 ≤ (withTx 4095 0).param.txBytes ∧
    (withTx 4096 0).param.txBytes < (withTx 4096 0).tx.len.toNat + 1 := by decide

theorem witness_Put16AppendsBigEndian :
    (withTx 4094 0).tx.len.toNat + 2 ≤ (withTx 4094 0).param.txBytes ∧
    (withTx 4095 0).param.txBytes < (withTx 4095 0).tx.len.toNat + 2 := by decide

theorem witness_Put32AppendsBigEndian :
    (withTx 4092 0).tx.len.toNat + 4 ≤ (withTx 4092 0).param.txBytes ∧
    (withTx 4093 0).param.txBytes < (withTx 4093 0).tx.len.toNat + 4 := by decide

theorem witness_PutuvAppendsVarint :
    (withTx 4091 0xFFFFFFFF).tx.len.toNat + (uvBytes (withTx 4091 0xFFFFFFFF).value).length ≤
      (withTx 4091 0xFFFFFFFF).param.txBytes ∧
    (withTx 4092 0xFFFFFFFF).param.txBytes <
      (withTx 4092 0xFFFFFFFF).tx.len.toNat + (uvBytes (withTx 4092 0xFFFFFFFF).value).length := by decide

theorem witness_PutcaAppendsLength :
    (withTx 0 0xFFFFFFFF).value = 0xFFFFFFFF#32 ∧ (withTx 4091 0xFFFFFFFE).value ≠ 0xFFFFFFFF#32 ∧
    (withTx 4091 0xFFFFFFFE).tx.len.toNat + (uvBytes (BitVec.ofNat 32 (0xFFFFFFFE + 1))).length ≤
      (withTx 4091 0xFFFFFFFE).param.txBytes ∧
    (withTx 4096 0).param.txBytes < (withTx 4096 0).tx.len.toNat + (uvBytes (BitVec.ofNat 32 (0 + 1))).length := by decide

theorem witness_RxseekSetsTheCursor :
    (9#16 : Half).toNat ≤ (withBodyBytes bodyG1).rx.bodyLen.toNat ∧
    (withBodyBytes bodyG1).rx.bodyLen.toNat < (10#16 : Half).toNat := by decide

/-- The premise of every GET at its edge, and its two ends. -/
theorem witness_Gets :
    (let s := atPos 4092 { State.reset with rx := { State.reset.rx with bodyLen := 4096 } }
     s.rx.bodyLen.toNat ≤ s.param.rxBytes ∧ s.rx.pos.toNat + 4 ≤ s.rx.bodyLen.toNat) ∧
    (let s := atPos 4096 { State.reset with rx := { State.reset.rx with bodyLen := 4096 } }
     s.rx.bodyLen.toNat ≤ s.param.rxBytes ∧ s.rx.bodyLen.toNat < s.rx.pos.toNat + 1) := by decide

/-- The three ends of GETUV and GETCA: five bytes, a body that ends after four, a fifth byte above 0x0F. -/
theorem witness_VarintEnds :
    VarintAt (withBodyBytes [0xFF, 0xFF, 0xFF, 0xFF, 0x0F]).rxByte 0 5 ∧
    (∀ j, j < 4 → 128 ≤ ((withBodyBytes [0xFF, 0xFF, 0xFF, 0xFF]).rxByte (0 + j)).toNat) ∧
    (withBodyBytes [0xFF, 0xFF, 0xFF, 0xFF]).rx.bodyLen.toNat ≤ 0 + 4 ∧
    15 < ((withBodyBytes [0xFF, 0xFF, 0xFF, 0xFF, 0x10]).rxByte (0 + 4)).toNat :=
  ⟨⟨by decide, fun j hj => by (have : j < 4 := by omega); interval_cases j <;> decide, by decide, by decide⟩, by decide,
    by decide, by decide⟩

theorem witness_GetStopsOnlyBeyondTheBuffer :
    (let s : State := { State.reset with rx := { State.reset.rx with bodyLen := 4097 } }
     s.param.rxBytes < s.rx.bodyLen.toNat) ∧ State.reset.rx.bodyLen.toNat ≤ State.reset.param.rxBytes := by decide

/-- A PUTCA of 127 from reset, and a body that holds its two bytes. -/
theorem witness_VarintInverseLaw :
    (∀ j, j < (uvBytes 300).length → ([0xAC, 0x02] : List Byte).getD (0 + j) 0 = (uvBytes 300).getD j 0) ∧
    nextAnd (exec .putca (withTx 0 127)) (fun t =>
      t.status.done && t.tx.len.toNat == (withTx 0 127).tx.len.toNat + 2 &&
        (List.range 2).all fun j => (withBodyBytes [0x80, 0x01]).rxByte j == t.txByte j) = true := by decide

theorem witness_DecodeIssue :
    State.reset.status.rxClosed = false ∧ ({ State.reset.status with rxClosed := true } : Status).rxClosed = true := by decide

theorem witness_HeldCommandWaits :
    State.reset.eng.eop = .idle ∧ ((decoding 6 0x0A []).eng.eop = .dec ∧ (decoding 6 0x0A []).env.rxPending = []) ∧
    (encoding 0 0 none).eng.eop = .enc ∧ (encoding 0 0 none).env.txReady = none := by decide

theorem witness_DecodeEndsOnStreamEnd :
    (decoding 0 0 [.eos]).eng.eop = .dec ∧ (decoding 0 0 [.eos]).env.rxPending = .eos :: [] ∧ RxEvent.eos.isEnd = true ∧
    (decoding 5 9 [.err]).env.rxPending = .err :: [] ∧ RxEvent.err.isEnd = true := by decide

/-- The size checked, for 16-byte buffers: 7, 8, 24 and 25. -/
theorem witness_DecodeValidatesSize :
    let s := decoding 3 0 [.byte 7]
    s.eng.eop = .dec ∧ s.env.rxPending = .byte 7 :: [] ∧ s.rx.count = 3 ∧
    (s.eng.acc * 256#32 + (7#8).setWidth 32).toInt < 8 ∧ 8 ≤ (s.eng.acc * 256#32 + (8#8).setWidth 32).toInt ∧
    (s.eng.acc * 256#32 + (24#8).setWidth 32).toInt - 8 ≤ s.param.rxBytes ∧
    (s.param.rxBytes : Int) < (s.eng.acc * 256#32 + (25#8).setWidth 32).toInt - 8 := by decide

/-- Frame bytes 0, 2, 4 and 11 (with a body), and each field's last byte. -/
theorem witness_DecodeUnpacksHeader :
    ((decoding 5 9 [.byte 1]).eng.eop = .dec ∧ (decoding 5 9 [.byte 1]).env.rxPending = .byte 1 :: []) ∧
    ∀ k ∈ [0, 2, 4, 5, 7, 11], (decoding k 9 [.byte 1]).rx.count.toNat = k ∧ (decoding k 9 [.byte 1]).rx.count.toNat < 12 ∧
      (decoding k 9 [.byte 1]).rx.count.toNat ≠ 3 ∧ (decoding k 9 [.byte 1]).rx.size.toInt ≠ 8 := by decide

/-- The first body byte of a frame with two, and the last one that fits. -/
theorem witness_DecodeStoresBodyByte :
    (let s := decoding 12 10 [.byte 1]
     s.eng.eop = .dec ∧ s.env.rxPending = .byte 1 :: [] ∧ 12 ≤ s.rx.count.toNat ∧
       s.rx.count.toNat - 12 < s.param.rxBytes ∧ (s.rx.count.toNat : Int) + 1 ≠ 4 + s.rx.size.toInt) ∧
    (let s := decoding 27 24 [.byte 1]
     12 ≤ s.rx.count.toNat ∧ s.rx.count.toNat - 12 < s.param.rxBytes) := by decide

/-- An empty body, and one that fills RXBUF. -/
theorem witness_DecodeSucceedsOnLastByte :
    (let s := decoding 11 8 [.byte 1]
     s.eng.eop = .dec ∧ s.env.rxPending = .byte 1 :: [] ∧ 11 ≤ s.rx.count.toNat ∧
       (s.rx.count.toNat : Int) + 1 = 4 + s.rx.size.toInt ∧ s.rx.size.toInt - 8 ≤ s.param.rxBytes) ∧
    (let s := decoding 27 24 [.byte 1]
     11 ≤ s.rx.count.toNat ∧ (s.rx.count.toNat : Int) + 1 = 4 + s.rx.size.toInt ∧
       s.rx.size.toInt - 8 ≤ s.param.rxBytes) := by decide

/-- A DECODE of the frame with a given body, with one event after it. -/
def receiving (body : List Byte) : State :=
  { small with env := { small.env with
      agenda := .host (.write 0x010 .four 0x01000000) :: (List.replicate (12 + body.length) .engine ++ [.attach])
      rxPending := (requestFrame 0x12 0x8004 0xFFFFFFFE body).map RxEvent.byte ++ [.byte 9] } }

theorem witness_DecodeReceivesTheFrame :
    (receiving [0x55]).busy = false ∧ (receiving [0x55]).status.rxClosed = false ∧
    ([0x55] : List Byte).length ≤ (receiving [0x55]).param.rxBytes ∧
    (List.replicate 16 (0x55 : Byte)).length ≤ (receiving []).param.rxBytes ∧
    (receiving [0x55]).env.rxPending = (requestFrame 0x12 0x8004 0xFFFFFFFE [0x55]).map RxEvent.byte ++ [.byte 9] ∧
    (receiving [0x55]).env.agenda =
      .host (.write 0x010 .four 0x01000000) :: (List.replicate (12 + 1) .engine ++ [.attach]) := by decide

/-- The same frame cut after its first byte, and after all bytes but one. -/
theorem witness_DecodeOfShortStreamIsTruncated :
    let cut (k : Nat) : State :=
      { small with env := { small.env with
          rxPending := ((requestFrame 0x12 4 1 [0x55]).take k).map RxEvent.byte ++ [.eos]
          agenda := .host (.write 0x010 .four 0x01000000) :: (List.replicate (k + 1) .engine ++ []) } }
    ((cut 1).busy = false ∧ (cut 1).status.rxClosed = false ∧ 1 ≤ 1 ∧
      (cut 1).env.rxPending = ((requestFrame 0x12 4 1 [0x55]).take 1).map RxEvent.byte ++ .eos :: []) ∧
    12 < 12 + ([0x55] : List Byte).length ∧
    (cut 12).env.rxPending = ((requestFrame 0x12 4 1 [0x55]).take 12).map RxEvent.byte ++ .eos :: [] := by decide

theorem witness_EncodeIssue :
    (withTx 4096 0).status.txClosed = false ∧ (withTx 4096 0).tx.len.toNat ≤ (withTx 4096 0).param.txBytes ∧
    ({ State.reset.status with txClosed := true } : Status).txClosed = true := by decide

/-- The first byte of the smallest frame and the last byte of the largest. -/
theorem witness_EncodeSendsNextByte :
    (let s := encoding 0 0 (some .ok)
     s.eng.eop = .enc ∧ s.env.txReady = some .ok ∧ s.tx.count.toNat < 8 + s.eng.elen.toNat ∧
       s.eng.elen.toNat ≤ s.param.txBytes) ∧
    (let s := encoding 23 16 (some .ok)
     s.tx.count.toNat < 8 + s.eng.elen.toNat ∧ s.eng.elen.toNat ≤ s.param.txBytes) := by decide

theorem witness_EncodeEndsOnWriteFailure :
    let s := encoding 23 16 (some .err)
    s.eng.eop = .enc ∧ s.env.txReady = some .err ∧ s.tx.count.toNat < 8 + s.eng.elen.toNat ∧
      s.eng.elen.toNat ≤ s.param.txBytes := by decide

theorem witness_EncodeSendsTheFrame :
    let s := placed (.host (.write 0x010 .four 0x02000000) ::
      ((List.replicate (8 + 2) [Turn.txsink .ok, .engine]).flatten ++ [])) (withTx 2 0)
    s.busy = false ∧ s.status.txClosed = false ∧ s.tx.len.toNat ≤ s.param.txBytes ∧ s.tx.len.toNat = 2 ∧
      s.env.agenda = .host (.write 0x010 .four 0x02000000) ::
        ((List.replicate (8 + s.tx.len.toNat) [Turn.txsink .ok, .engine]).flatten ++ []) := by decide

/-- The last word, half word and byte of each buffer. -/
theorem witness_BufferWindowsAreBigEndian :
    (0x1000C#18).toNat = 0x10000 + 12 ∧ 12 + 4 ≤ small.param.rxBytes ∧ 12 % 4 = 0 ∧ (0x1000E#18).toNat = 0x10000 + 14 ∧
    14 + 2 ≤ small.param.rxBytes ∧ (0x1000F#18).toNat = 0x10000 + 15 ∧ 15 < small.param.rxBytes ∧
    (0x2000C#18).toNat = 0x20000 + 12 ∧ 12 + Width.four.bytes ≤ small.param.txBytes ∧ 12 % Width.four.bytes = 0 ∧
    (0x2000E#18).toNat = 0x20000 + 14 ∧ 14 + Width.two.bytes ≤ small.param.txBytes ∧ 15 + Width.one.bytes ≤ 16 ∧
    (0x2000F#18).toNat = 0x20000 + 15 ∧ 15 < small.param.txBytes ∧ small.busy = false := by decide

/-- One address for each way to a bus error, at its edge. -/
theorem witness_BusErrorsChangeNothing :
    (0x40 ≤ (0x40#18).toNat ∧ (0x40#18).toNat < 0x10000) ∧ 0x30000 ≤ (0x30000#18).toNat ∧
    ((0x008#18).toNat < 0x1000 ∧ Width.two ≠ .four) ∧ (0x00A#18).toNat % 4 ≠ 0 ∧ (0x20001#18).toNat % Width.two.bytes ≠ 0 ∧
    small.param.rxBytes < (0x10010#18).toNat - 0x10000 + Width.one.bytes ∧
    small.param.txBytes < (0x2000E#18).toNat - 0x20000 + Width.four.bytes ∧
    (0x10000 ≤ (0x10000#18).toNat ∧ (0x10000#18).toNat < 0x20000) := by decide

theorem witness_BusyWritesAreRefused :
    (decoding 0 0 []).busy = true ∧ (encoding 0 0 none).busy = true ∧
    (0x20000 ≤ (0x2000F#18).toNat ∧ (0x2000F#18).toNat + Width.one.bytes ≤ 0x20000 + (decoding 0 0 []).param.txBytes ∧
      (0x2000F#18).toNat % Width.one.bytes = 0) ∧
    (0x03C#18).toNat < 0x40 ∧ (0x03C#18).toNat % 4 = 0 ∧ (0x03C#18).toNat ∉ [0x008, 0x010, 0x014, 0x034] := by decide

theorem witness_RegisterWrites :
    State.reset.busy = false ∧ (0x018#18).toNat < 0x40 ∧ (0x018#18).toNat % 4 = 0 ∧
    (0x018#18).toNat ∉ [0x008, 0x010, 0x014, 0x034] := by decide

theorem witness_CtrlWrite :
    ((4#32).getLsbD 0 = false ∧ (4#32).getLsbD 1 = false) ∧ ((6#32).getLsbD 0 = false ∧ (6#32).getLsbD 1 = true) ∧
    (7#32).getLsbD 0 = true := by decide

theorem witness_MixedWidthRead : State.reset.tx.len = 0 ∧ State.reset.busy = false := by decide

/-- Every error number of spec/60_exceptions.md R240 is reached by the error's name. -/
theorem witness_StatusWordFields :
    ({ State.reset with status := { State.reset.status with errCode := .varintOverflow } } : State).status.errCode =
      .varintOverflow ∧
    (({ State.reset with status := { State.reset.status with errCode := .endOfData } } : State).statusWord.extractLsb' 4 4).toNat
      = 10 := by decide

/-- A DECODE that has its last byte offered meets the invariant, and its step goes on. -/
theorem witness_Inv :
    (placed [.engine] (decoding 11 8 [.byte 1])).Inv ∧ ∃ t, step (placed [.engine] (decoding 11 8 [.byte 1])) = .next t := by
  refine ⟨⟨⟨by decide, by decide, by decide, by decide, by decide, by decide, by decide, by decide⟩, ⟨by decide, by decide⟩,
    ⟨by decide, by decide, by decide⟩, ⟨by decide, ?_⟩, ⟨by decide, by decide⟩⟩, _, rfl⟩
  intro c hc
  cases hc

theorem witness_ChannelsReopenOnlyAtReset :
    (let s := placed [.reset] { State.reset with status := { State.reset.status with rxClosed := true, txClosed := true } }
     s.status.rxClosed && s.status.txClosed && nextAnd (step s) fun t => !t.status.rxClosed && !t.status.txClosed) = true := by
  decide

theorem witness_WrejIsSticky :
    (let s := placed [.host (.write 0x008 .four 2)] { State.reset with status := { State.reset.status with wrej := true } }
     s.status.wrej && nextAnd (step s) fun t => !t.status.wrej) = true ∧
    (let s := placed [.host (.write 0x014 .four 2)] (decoding 0 0 [])
     !s.status.wrej && nextAnd (step s) fun t => t.status.wrej) = true := by decide

theorem witness_VnullWrittenOnlyByGetca :
    (let s := placed [.host (.write 0x010 .four 0x24000000)] (withBodyBytes [0x00])
     nextAnd (step s) fun t => t.status.vnull != s.status.vnull) = true := by decide

theorem witness_ConfigurationNeverChanges : ∃ t, step (placed [.reset] small) = .next t := ⟨_, rfl⟩

/-- A body byte of a DECODE and a host write of one byte, each over a byte that held 0. -/
theorem witness_BuffersWrittenOnlyByTheirWriters :
    (let s := placed [.engine] { decoding 12 10 [.byte 1] with mem := [(rxBase, 0)] }
     nextAnd (step s) fun t => t.byteAt rxBase != s.byteAt rxBase) = true ∧
    (let s := placed [.host (.write 0x20000 .one 1)] { State.reset with mem := [(txBase, 0)] }
     nextAnd (step s) fun t => t.byteAt txBase != s.byteAt txBase) = true := by decide

theorem witness_QuiescentUntilHostOrReset :
    (placed [.rxsrc .eos] State.reset).busy = false ∧ (∃ t, step (placed [.rxsrc .eos] State.reset) = .next t) ∧
    (∀ a, (placed [.rxsrc .eos] State.reset).nextTurn ≠ .host a) ∧ (placed [.rxsrc .eos] State.reset).nextTurn ≠ .reset :=
  ⟨rfl, ⟨_, rfl⟩, fun _ h => (by cases h), by decide⟩

theorem witness_StreamOrder :
    (∃ t, step (placed [.engine] (decoding 11 8 [.byte 1])) = .next t) ∧
    (placed [.engine] (decoding 11 8 [.byte 1])).nextTurn = .engine ∧
    (placed [.engine] (decoding 11 8 [.byte 1])).eng.eop = .dec ∧
    (∃ t, step (placed [.engine] (encoding 7 0 (some .ok))) = .next t) ∧
    (placed [.engine] (encoding 7 0 (some .ok))).nextTurn ≠ .attach ∧
    ¬ ((placed [.engine] (encoding 7 0 (some .ok))).eng.eop = .dec) :=
  ⟨⟨_, rfl⟩, rfl, rfl, ⟨_, rfl⟩, by decide, by decide⟩

/-- The range of PUTI16 at its edges, inside and outside. -/
theorem witness_PseudoCommandWords :
    literal "-32768".toList = some (-32768) ∧ literal "32767".toList = some 32767 ∧
    literal "-32769".toList = some (-32769) ∧ ¬ ((-32768 : Int) ≤ -32769) ∧
    literal "32768".toList = some 32768 ∧ ¬ ((32768 : Int) ≤ 32767) := by decide

end Sys2Proof.Tests
end

section
/-! PROOF. The invariant (10_state.md R58, R52, R55) holds at reset, and every turn keeps it. -/
namespace Sys2Proof.Machine

/-! ### The clauses a running command adds nothing to -/

/-- The clauses of the invariant that speak of no running command and of no result. -/
structure State.BaseInv (s : State) : Prop where
  pos_le : s.rx.pos.toNat ≤ s.rx.bodyLen.toNat
  bodyLen_le : s.rx.bodyLen.toNat ≤ s.param.rxBytes
  txLen_le : s.tx.len.toNat ≤ s.param.txBytes
  rx_count : s.rx.count.toNat ≤ 12 + s.param.rxBytes
  tx_count : s.tx.count.toNat ≤ 8 + s.param.txBytes
  wf : Memory.wf s.mem
  mapped : ∀ c ∈ s.mem, Mapped s.param c.1
  stream : s.env.StreamInv

/-- A result R58 allows: not both DONE and ERR, and an error code exactly with ERR. -/
structure Status.Sound (st : Status) : Prop where
  done_err : ¬ (st.done = true ∧ st.err = true)
  errCode_err : st.errCode = .noError ↔ st.err = false

theorem State.Inv.base {s : State} (h : s.Inv) : s.BaseInv :=
  { h.r58, h.counts, h.memory with stream := h.stream }

theorem State.Inv.sound {s : State} (h : s.Inv) : s.status.Sound := { h.r58 with }

/-- With no command running the other clauses are about the result only. -/
theorem State.BaseInv.idle {s : State} (h : s.BaseInv) (hs : s.status.Sound) (he : s.eng.eop = .idle) : s.Inv where
  r58 := { h, hs with
    enc_emsz := fun h' => by simp [he] at h'
    enc_count := fun h' => by simp [he] at h'
    dec_bodyLen := fun h' => by simp [he] at h' }
  counts := { h with }
  engine := {
    no_result := fun h' => absurd he h'
    dec_size := fun h' => by simp [he] at h'
    enc_len := fun h' => by simp [he] at h' }
  memory := { h with }
  stream := h.stream

/-- The invariant while a DECODE runs. -/
theorem State.BaseInv.decoding {s : State} (h : s.BaseInv) (hs : s.status.Sound) (he : s.eng.eop = .dec)
    (hr : s.status.done = false ∧ s.status.err = false) (hb : s.rx.bodyLen = 0)
    (hsize : 4 ≤ s.rx.count.toNat →
      sizeError s.rx.size s.param.rxBytes = none ∧ (s.rx.count.toNat : Int) < 4 + s.rx.size.toInt) : s.Inv where
  r58 := { h, hs with
    enc_emsz := fun h' => by simp [he] at h'
    enc_count := fun h' => by simp [he] at h'
    dec_bodyLen := fun _ => hb }
  counts := { h with }
  engine := { no_result := fun _ => hr, dec_size := fun _ => hsize, enc_len := fun h' => by simp [he] at h' }
  memory := { h with }
  stream := h.stream

/-- The invariant while an ENCODE runs. -/
theorem State.BaseInv.encoding {s : State} (h : s.BaseInv) (hs : s.status.Sound) (he : s.eng.eop = .enc)
    (hr : s.status.done = false ∧ s.status.err = false) (hm : s.eng.emsz = 4#32 + s.eng.elen.setWidth 32)
    (hl : s.eng.elen.toNat ≤ s.param.txBytes) (hc : s.tx.count.toNat < 8 + s.eng.elen.toNat) : s.Inv where
  r58 := { h, hs with
    enc_emsz := fun _ => hm
    enc_count := fun _ => hc.le
    dec_bodyLen := fun h' => by simp [he] at h' }
  counts := { h with }
  engine := { no_result := fun _ => hr, dec_size := fun h' => by simp [he] at h', enc_len := fun _ => ⟨hl, hc⟩ }
  memory := { h with }
  stream := h.stream

/-! ### Ends of a command -/

theorem Status.Sound.reset : Status.reset.Sound := ⟨by decide, by decide⟩

theorem doneStatus_sound (opc : Byte) (s : State) : (doneStatus opc s).Sound := ⟨by simp [doneStatus], by simp [doneStatus]⟩

/-- An error ends in a sound result when no result stood before. -/
theorem Status.Sound.ofError {st : Status} (hd : st.done = false) (he : st.err = true) (hc : st.errCode ≠ .noError) :
    st.Sound := ⟨by simp [hd], by simp [he, hc]⟩

/-- DONE is a sound result when no error stood before. -/
theorem Status.Sound.ofNoError {st : Status} (he : st.err = false) (hc : st.errCode = .noError) :
    st.Sound := ⟨by simp [he], by simp [he, hc]⟩

theorem State.BaseInv.rejected {s : State} (h : s.BaseInv) (opc : Byte) {e : ErrCode} (he : e ≠ .noError) :
    (rejected opc e s).Inv :=
  State.BaseInv.idle { h with } (.ofError rfl rfl he) rfl

theorem State.BaseInv.failRx {s : State} (h : s.BaseInv) (hd : s.status.done = false) {e : ErrCode}
    (he : e ≠ .noError) : (s.failRx e).Inv :=
  State.BaseInv.idle { h with } (.ofError hd rfl he) rfl

theorem State.BaseInv.failTx {s : State} (h : s.BaseInv) (hd : s.status.done = false) : s.failTx.Inv :=
  State.BaseInv.idle { h with } (.ofError hd rfl ErrCode.noConfusion) rfl

theorem State.BaseInv.resetBlock {s : State} (h : s.BaseInv) : s.resetBlock.Inv :=
  State.BaseInv.idle
    { h with
      pos_le := Nat.le_refl _, bodyLen_le := Nat.zero_le _, txLen_le := Nat.zero_le _
      rx_count := Nat.zero_le _, tx_count := Nat.zero_le _ } .reset rfl

/-! ### Updates that touch no running command -/

/-- Only the streams' part of the environment is spoken of. -/
theorem State.Inv.withEnv {s : State} (h : s.Inv) {e : Env} (he : e.StreamInv) : ({ s with env := e } : State).Inv :=
  ⟨{ h.r58 with }, { h.counts with }, { h.engine with }, { h.memory with }, he⟩

theorem State.Inv.respond {s : State} (h : s.Inv) (r : HostResp) : (s.respond r).Inv := h.withEnv { h.stream with }

theorem State.Inv.withAgenda {s : State} (h : s.Inv) (a : List Turn) (d : Nat) :
    ({ s with env := { s.env with agenda := a, draws := d } } : State).Inv := h.withEnv { h.stream with }

/-- The registers the invariant says nothing of: CTRL.IE, STATUS.WREJ, VALUE and TX_CORR_ID. -/
theorem State.Inv.withFreeRegs {s : State} (h : s.Inv) (ie wrej : Bool) (value corrId : Word) :
    ({ s with
      ie := ie, value := value
      status := { s.status with wrej := wrej }, tx := { s.tx with corrId := corrId } } : State).Inv :=
  ⟨{ h.r58 with }, { h.counts with }, { h.engine with }, { h.memory with }, h.stream⟩

theorem State.Inv.withIe {s : State} (h : s.Inv) (b : Bool) : ({ s with ie := b } : State).Inv :=
  h.withFreeRegs b s.status.wrej s.value s.tx.corrId

theorem State.Inv.clearResult {s : State} (h : s.Inv) : s.clearResult.Inv :=
  ⟨{ h.r58 with done_err := fun ⟨hd, _⟩ => by simp at hd, errCode_err := by simp }, { h.counts with },
    { h.engine with no_result := fun _ => ⟨rfl, rfl⟩ }, { h.memory with }, h.stream⟩

theorem State.Inv.writeCtrl {s : State} (h : s.Inv) (v : Word) : (s.writeCtrl v).Inv := by
  unfold State.writeCtrl
  split_ifs
  · exact h.base.resetBlock
  · exact h.clearResult.withIe _
  · exact h.withIe _

/-! ### The memory -/

theorem Mapped.txBuf {p : Param} {o n a : Nat} (ho : o + n ≤ p.txBytes) (ha : txBase + o ≤ a ∧ a < txBase + o + n) :
    Mapped p a := .inr ⟨by omega, by omega⟩

theorem State.MemInv.writeTx {s t : State} (h : s.MemInv) {o : Nat} {L : List Byte} (ho : o + L.length ≤ s.param.txBytes)
    (hp : t.param = s.param) (hm : t.mem = Memory.writeAll s.mem (txBase + o) L) : t.MemInv where
  wf := hm ▸ Memory.writeAll_wf h.wf _ _
  mapped c hc := by
    rw [hm] at hc
    rw [hp]
    exact (Memory.mem_writeAll hc).elim (Mapped.txBuf ho) (h.mapped c)

theorem State.MemInv.writeRx {s t : State} (h : s.MemInv) {i : Nat} {b : Byte} (hi : i < s.param.rxBytes)
    (hp : t.param = s.param) (hm : t.mem = Memory.write s.mem (rxBase + i) b) : t.MemInv where
  wf := hm ▸ Memory.write_wf h.wf _ _
  mapped c hc := by
    rw [hm] at hc
    rw [hp]
    rcases Memory.mem_write hc with rfl | hc
    · exact .inl ⟨Nat.le_add_right _ _, Nat.add_lt_add_left hi _⟩
    · exact h.mapped c hc

theorem State.Inv.setTxBytes {s : State} (h : s.Inv) {o : Nat} {L : List Byte} (ho : o + L.length ≤ s.param.txBytes) :
    (s.setTxBytes o L).Inv :=
  ⟨{ h.r58 with }, { h.counts with }, { h.engine with }, h.memory.writeTx ho rfl rfl, h.stream⟩

/-! ### The streams -/

theorem Env.StreamInv.arrive {e : Env} (h : e.StreamInv) (x : RxEvent) (he : e.rxEnded = false) :
    ({ e with rxPending := e.rxPending ++ [x], rxEnded := x.isEnd } : Env).StreamInv where
  end_last y hy := h.not_ended he y (by simpa using hy)
  not_ended hx y hy := by
    rcases List.mem_append.1 hy with hy | hy
    · exact h.not_ended he y hy
    · obtain rfl : y = x := by simpa using hy
      exact hx

/-- Consuming the first event leaves a sequence of the same form. -/
theorem Env.StreamInv.consume {e : Env} (h : e.StreamInv) {x : RxEvent} {rest : List RxEvent}
    (hp : e.rxPending = x :: rest) : ({ e with rxPending := rest } : Env).StreamInv where
  end_last y hy := by
    refine h.end_last y ?_
    rw [hp]
    cases rest with
    | nil => simp at hy
    | cons z zs => exact List.mem_cons_of_mem _ hy
  not_ended he y hy := h.not_ended he y (hp ▸ List.mem_cons_of_mem _ hy)

theorem State.Inv.rxArrive {s : State} (h : s.Inv) (e : RxEvent) : (s.rxArrive e).Inv := by
  unfold State.rxArrive
  split_ifs with he
  · exact h
  · exact h.withEnv (h.stream.arrive e (by simpa using he))

theorem State.Inv.txReadyWith {s : State} (h : s.Inv) (a : TxAnswer) : (s.txReadyWith a).Inv :=
  h.withEnv { h.stream with }

theorem State.Inv.attachStreams {s : State} (h : s.Inv) : s.attachStreams.Inv := by
  unfold State.attachStreams
  split_ifs
  · exact h
  · exact h.withEnv ⟨by simp, by simp⟩

/-! ### The commands' issue -/

theorem State.Inv.startDecode {s : State} (h : s.Inv) (opc : Byte) : (s.beginIssue opc).startDecode.Inv :=
  State.BaseInv.decoding
    { h.base with pos_le := Nat.le_refl _, bodyLen_le := Nat.zero_le _, rx_count := Nat.zero_le _ }
    (.ofNoError rfl rfl) rfl ⟨rfl, rfl⟩ rfl (fun h4 => absurd h4 (by simp [State.startDecode]))

theorem State.Inv.startEncode {s : State} (h : s.Inv) (opc : Byte) : (s.beginIssue opc).startEncode.Inv :=
  State.BaseInv.encoding { h.base with tx_count := Nat.zero_le _ } (.ofNoError rfl rfl) rfl ⟨rfl, rfl⟩ rfl
    h.base.txLen_le (by simp [State.startEncode])

theorem State.Inv.appended {s : State} (h : s.Inv) (opc : Byte) {L : List Byte}
    (hr : s.tx.len.toNat + L.length ≤ s.param.txBytes) : ((s.beginIssue opc).appended L).Inv :=
  have hm : ((s.beginIssue opc).appended L).MemInv := h.memory.writeTx hr rfl rfl
  State.BaseInv.idle { hm, h.base with txLen_le := (State.appended_len (s := s.beginIssue opc) hr).trans_le hr }
    (.ofNoError rfl rfl) rfl

theorem Half.toNat_toLen (off : Half) : (off.setWidth 17).toNat = off.toNat := by
  rw [BitVec.toNat_setWidth]; omega

/-- Whatever a command's issue does, the invariant is kept. -/
theorem CommandEffect.inv {s t : State} {i : Instr} (hs : s.Inv) (h : CommandEffect s i t) : t.Inv := by
  cases h with
  | rejects _ e he => exact hs.base.rejected _ he
  | startsDecode _ => exact hs.startDecode _
  | startsEncode _ => exact hs.startEncode _
  | seeksRx off ho =>
    exact State.BaseInv.idle { hs.base with pos_le := (Half.toNat_toLen off).trans_le ho } (doneStatus_sound _ s) rfl
  | seeksTx off ho =>
    exact State.BaseInv.idle { hs.base with txLen_le := (Half.toNat_toLen off).trans_le ho } (doneStatus_sound _ s) rfl
  | appends _ _ L hr => exact hs.appended _ hr
  | reads _ _ n v b hb hp _ =>
    have hlen : (s.rx.pos + BitVec.ofNat 17 n).toNat = s.rx.pos.toNat + n :=
      Len.toNat_add_ofNat _ _ (by have := s.rx.bodyLen.isLt; omega)
    exact State.BaseInv.idle { hs.base with pos_le := hlen.trans_le hp } { doneStatus_sound i.opc s with } rfl

theorem issue_inv {w : Word} {s t : State} (hs : s.Inv) (h : issue w s = .next t) : t.Inv := by
  rcases issue_effect h with ⟨_, _, he⟩ | ⟨_, rfl⟩
  · exact he.inv hs
  · exact hs.base.rejected _ (by decide)

theorem WriteEffect.inv {addr : Addr} {n : Width} {v : Word} {s t : State} (hs : s.Inv)
    (h : WriteEffect addr n v s t) : t.Inv := by
  cases h with
  | busErr => exact hs.respond _
  | ignored => exact hs.respond _
  | ctrl _ _ => exact (hs.respond _).writeCtrl v
  | refused _ => exact (hs.respond .okWrite).withFreeRegs s.ie true s.value s.tx.corrId
  | issues _ _ _ _ hi => exact issue_inv (hs.respond _) hi
  | value _ => exact (hs.respond .okWrite).withFreeRegs s.ie s.status.wrej v s.tx.corrId
  | txCorrId _ => exact (hs.respond .okWrite).withFreeRegs s.ie s.status.wrej s.value v
  | txBuf _ o ho => exact (hs.respond _).setTxBytes (by simpa [beBytes_length] using ho)

/-! ### The ENGINE's DECODE steps -/

@[simp] theorem State.took_param (b : Byte) (s : State) : (s.took b).param = s.param := by simp [State.took]
@[simp] theorem State.took_status (b : Byte) (s : State) : (s.took b).status = s.status := by simp [State.took]
@[simp] theorem State.took_tx (b : Byte) (s : State) : (s.took b).tx = s.tx := by simp [State.took]
@[simp] theorem State.took_eop (b : Byte) (s : State) : (s.took b).eng.eop = s.eng.eop := by simp [State.took]
@[simp] theorem State.took_mem (b : Byte) (s : State) : (s.took b).mem = s.mem := by simp [State.took]
@[simp] theorem State.took_env (b : Byte) (s : State) : (s.took b).env = s.env := by simp [State.took]
@[simp] theorem State.took_count (b : Byte) (s : State) : (s.took b).rx.count = s.rx.count + 1 := by
  unfold State.took State.storeField; split_ifs <;> rfl
@[simp] theorem State.took_pos (b : Byte) (s : State) : (s.took b).rx.pos = s.rx.pos := by
  unfold State.took State.storeField; split_ifs <;> rfl
@[simp] theorem State.took_bodyLen (b : Byte) (s : State) : (s.took b).rx.bodyLen = s.rx.bodyLen := by
  unfold State.took State.storeField; split_ifs <;> rfl

/-- Only frame byte 3 completes the size field (R150). -/
theorem State.took_size {b : Byte} {s : State} (h : s.rx.count.toNat ≠ 3) : (s.took b).rx.size = s.rx.size := by
  rw [State.took, State.storeField, if_neg h]
  split_ifs <;> rfl

/-- A byte counter inside 17 bits counts one more. -/
theorem Len.toNat_add_one (x : Len) {n : Nat} (hx : x.toNat < n) (hn : n < 131072) : (x + 1).toNat = x.toNat + 1 :=
  Len.toNat_add_ofNat x 1 (by omega)

theorem State.took_count_toNat {s : State} (b : Byte) (hk : s.rx.count.toNat < 12 + s.param.rxBytes) :
    (s.took b).rx.count.toNat = s.rx.count.toNat + 1 := by
  rw [State.took_count]
  exact Len.toNat_add_one _ hk (by have := s.param.rxBytes_le; omega)

theorem State.BaseInv.took {s : State} (h : s.BaseInv) (b : Byte) (hk : s.rx.count.toNat < 12 + s.param.rxBytes) :
    (s.took b).BaseInv where
  pos_le := by simpa using h.pos_le
  bodyLen_le := by simpa using h.bodyLen_le
  txLen_le := by simpa using h.txLen_le
  rx_count := by rw [State.took_count_toNat b hk, State.took_param]; omega
  tx_count := by simpa using h.tx_count
  wf := by simpa using h.wf
  mapped := by simpa using h.mapped
  stream := by simpa using h.stream

theorem State.BaseInv.tookBody {s : State} (h : s.BaseInv) (b : Byte) (hk : 12 ≤ s.rx.count.toNat)
    (hr : s.rx.count.toNat - 12 < s.param.rxBytes) : (s.tookBody b).BaseInv :=
  have ht := h.took b (by omega)
  have hm : (s.tookBody b).MemInv :=
    State.MemInv.writeRx { ht with } (i := s.rx.count.toNat - 12) (by simpa using hr) rfl rfl
  { hm, ht with }

/-- The body length of an accepted size fits RXBUF (R150, R153). -/
theorem bodyLen_le_of_sizeError {size : Word} {n : Nat} (h : sizeError size n = none) :
    ((size - 8#32).setWidth 17).toNat ≤ n := by
  obtain ⟨h8, hn⟩ := sizeError_eq_none.1 h
  have hsub : (size - 8#32).toNat = size.toInt.toNat - 8 := by
    rw [BitVec.toInt_eq_toNat_cond] at h8 ⊢
    rw [BitVec.toNat_sub]
    have := size.isLt
    split_ifs at h8 ⊢ <;> simp <;> omega
  have := Nat.mod_le (size - 8#32).toNat (2 ^ 17)
  rw [BitVec.toNat_setWidth]
  omega

theorem State.BaseInv.finishDecode {s : State} (h : s.BaseInv) (hs : s.status.Sound) (he : s.status.err = false)
    (hz : sizeError s.rx.size s.param.rxBytes = none) : s.finishDecode.Inv :=
  State.BaseInv.idle
    { h with pos_le := Nat.zero_le _, bodyLen_le := bodyLen_le_of_sizeError hz, txLen_le := Nat.zero_le _ }
    (.ofNoError he (hs.errCode_err.2 he)) rfl

/-- A running DECODE that has taken a byte past the size check, and stored nothing the invariant speaks of but a body
byte: after the last byte it ends, else it goes on with bytes left to take. -/
theorem State.Inv.decodeGoesOn {s u : State} (h : s.Inv) (hdec : s.eng.eop = .dec) (h3 : s.rx.count.toNat ≠ 3)
    (hu : u.BaseInv) (hp : u.param = s.param) (hst : u.status = s.status) (he : u.eng.eop = s.eng.eop)
    (hb : u.rx.bodyLen = s.rx.bodyLen) (hz : u.rx.size = s.rx.size) (hc : u.rx.count.toNat = s.rx.count.toNat + 1) :
    (if lastByte s.rx.count.toNat u.rx.size then u.finishDecode else u).Inv := by
  have hr : u.status.done = false ∧ u.status.err = false := hst ▸ h.engine.no_result (by simp [hdec])
  have hs : u.status.Sound := hst ▸ h.sound
  split_ifs with hl
  · have h11 := (lastByte_eq_true.1 hl).1
    exact hu.finishDecode hs hr.2 (by rw [hz, hp]; exact (h.engine.dec_size hdec (by omega)).1)
  · refine hu.decoding hs (he.trans hdec) hr (hb.trans (h.r58.dec_bodyLen hdec)) fun h4 => ?_
    obtain ⟨hsize, hlt⟩ := h.engine.dec_size hdec (by omega)
    rw [lastByte_eq_true, hz] at hl
    have h8 := (sizeError_eq_none.1 hsize).1
    rw [hz, hp, hc]
    exact ⟨hsize, by omega⟩

theorem State.Inv.decodeByte {s t : State} (h : s.Inv) (hdec : s.eng.eop = .dec) {b : Byte}
    (hd : decodeByte b s = .next t) : t.Inv := by
  have hr := h.engine.no_result (by simp [hdec])
  obtain ⟨h3, hsize⟩ | ⟨h3, h12, rfl⟩ | ⟨h12, hin, rfl⟩ := decodeByte_cases hd
  · have hk : s.rx.count.toNat < 12 + s.param.rxBytes := by omega
    have hb := h.base.took b hk
    obtain ⟨e, he, rfl⟩ | ⟨hnone, rfl⟩ := hsize
    · exact hb.failRx (by simpa using hr.1) (sizeError_ne he)
    · refine hb.decoding (by simpa using h.sound) (by simpa using hdec) (by simpa using hr)
        (by simpa using h.r58.dec_bodyLen hdec) fun _ => ⟨by simpa using hnone, ?_⟩
      have h8 := (sizeError_eq_none.1 hnone).1
      rw [State.took_count_toNat b hk]
      omega
  · have hk : s.rx.count.toNat < 12 + s.param.rxBytes := by omega
    exact h.decodeGoesOn hdec h3 (h.base.took b hk) (by simp) (by simp) (by simp) (by simp) (State.took_size h3)
      (State.took_count_toNat b hk)
  · have h3 : s.rx.count.toNat ≠ 3 := by omega
    exact h.decodeGoesOn hdec h3 (h.base.tookBody b h12 hin) (State.took_param b s) (State.took_status b s)
      (State.took_eop b s) (State.took_bodyLen b s) (State.took_size h3) (State.took_count_toNat b (by omega))

theorem State.Inv.decodeStep {s t : State} (h : s.Inv) (hdec : s.eng.eop = .dec) {e : RxEvent}
    (hd : decodeStep e s = .next t) : t.Inv := by
  have hr := h.engine.no_result (by simp [hdec])
  cases e with
  | byte b => exact h.decodeByte hdec hd
  | eos => cases hd; exact h.base.failRx hr.1 (by split_ifs <;> decide)
  | err => cases hd; exact h.base.failRx hr.1 (by decide)

/-! ### The ENGINE's ENCODE steps -/

theorem State.BaseInv.sent {s : State} (h : s.BaseInv) (b : Byte) (hc : s.tx.count.toNat < 8 + s.param.txBytes) :
    (s.sent b).BaseInv :=
  { h with
    tx_count := (Len.toNat_add_one _ hc (by have := s.param.txBytes_le; omega)).trans_le hc
    stream := { h.stream with } }

theorem State.Inv.encodeStep {s t : State} (h : s.Inv) (henc : s.eng.eop = .enc) {a : TxAnswer}
    (he : encodeStep a s = .next t) : t.Inv := by
  have hr := h.engine.no_result (by simp [henc])
  obtain ⟨hlen, hlt⟩ := h.engine.enc_len henc
  rcases encodeStep_cases he with ⟨_, rfl⟩ | ⟨_, rfl⟩
  · exact h.base.failTx hr.1
  · have hc : s.tx.count.toNat < 8 + s.param.txBytes := by omega
    have hb := h.base.sent (s.frameByte s.tx.count.toNat) hc
    split_ifs with hlast
    · exact State.BaseInv.idle { hb with } (.ofNoError hr.2 (h.r58.errCode_err.2 hr.2)) rfl
    · refine hb.encoding h.sound henc hr (h.r58.enc_emsz henc) hlen ?_
      have hn : (s.tx.count + 1).toNat = s.tx.count.toNat + 1 :=
        Len.toNat_add_one _ hc (by have := s.param.txBytes_le; omega)
      simp only [State.sent_tx, State.sent_eng, hn]
      omega

theorem engineTurn_inv {s t : State} (hs : s.Inv) (h : engineTurn s = .next t) : t.Inv := by
  rcases engineTurn_cases h with ⟨rfl, _⟩ | ⟨hdec, e, rest, hp, hd⟩ | ⟨henc, a, _, he⟩
  · exact hs
  · exact (hs.withEnv (hs.stream.consume hp)).decodeStep hdec hd
  · exact (hs.withEnv (e := { s.env with txReady := none }) { hs.stream with }).encodeStep henc he

/-! ### The whole machine -/

theorem TurnEffect.inv {u : Turn} {s t : State} (hs : s.Inv) (h : TurnEffect s u t) : t.Inv := by
  cases h with
  | reads _ _ => exact hs.respond _
  | writes _ _ _ _ hw => exact hw.inv hs
  | engine _ he => exact engineTurn_inv hs he
  | rxsrc e => exact hs.rxArrive e
  | txsink a => exact hs.txReadyWith a
  | attach => exact hs.attachStreams
  | reset => exact hs.base.resetBlock

/-- Settles O51: a step is a turn's effect on a state that differs in its agenda and draws only, and every turn's effect
keeps the invariant. -/
theorem stepKeepsInvariant : Obligations.StepKeepsInvariant := by
  intro s t hs h
  obtain ⟨a, d, _, ht⟩ := step_effect h
  exact ht.inv (hs.withAgenda a d)

/-- Settles O50: no command runs, every counter is 0 and nothing is listed in memory or on offer. -/
theorem invariantAtReset : Obligations.InvariantAtReset :=
  State.BaseInv.idle
    { pos_le := Nat.le_refl _, bodyLen_le := Nat.zero_le _, txLen_le := Nat.zero_le _, rx_count := Nat.zero_le _
      tx_count := Nat.zero_le _, wf := .nil, mapped := fun _ hc => (List.not_mem_nil hc).elim
      stream := ⟨fun _ hx => (List.not_mem_nil hx).elim, fun _ _ hx => (List.not_mem_nil hx).elim⟩ } .reset rfl

end Sys2Proof.Machine
end

section
/-! PROOF. What every step keeps: the configuration (10_state.md R32), WREJ (R38), VNULL (R41) and the order of the
streams (R21, R22). -/
namespace Sys2Proof

/-- A word that decodes selects a row, and the row builds the instruction (R115). -/
theorem decode_eq_ok {w : Word} {i : Instr} (h : decode w = .ok i) :
    ∃ r ∈ opcodeMap, r.selects w = true ∧ r.build (immOf w) = i := by
  rw [decode] at h
  split at h
  next r hr => exact ⟨r, List.mem_of_find?_eq_some hr, List.find?_some (p := fun r : Row => r.selects w) hr, by cases h; rfl⟩
  next => cases h

/-- Only one row builds a GETCA. -/
theorem opcodeMap_getca (imm : Half) :
    ∀ r ∈ opcodeMap, r.build imm = .getca → r.pattern = 0x24000000 ∧ r.mask = BitVec.allOnes 32 := by
  simp [opcodeMap]

/-- GETCA has one command word (R113). -/
theorem decode_eq_getca {w : Word} (h : decode w = .ok .getca) : w = 0x24000000 := by
  obtain ⟨r, hr, hs, hb⟩ := decode_eq_ok h
  obtain ⟨hp, hm⟩ := opcodeMap_getca _ r hr hb
  rw [Row.selects_def, hp, hm, BitVec.and_allOnes] at hs
  exact hs

end Sys2Proof

namespace Sys2Proof.Machine

/-! ### What the commands and the ENGINE keep -/

/-- What no command's issue but GETCA's and no ENGINE step writes. -/
structure KeepsFlags (s t : State) : Prop where
  param : t.param = s.param
  wrej : t.status.wrej = s.status.wrej
  vnull : t.status.vnull = s.status.vnull

theorem KeepsFlags.refl (s : State) : KeepsFlags s s := ⟨rfl, rfl, rfl⟩

/-- No command's issue writes PARAM, WREJ or the environment. -/
theorem CommandEffect.frame {s t : State} {i : Instr} (h : CommandEffect s i t) :
    t.param = s.param ∧ t.status.wrej = s.status.wrej ∧ t.env = s.env := by
  cases h <;> exact ⟨rfl, rfl, rfl⟩

theorem CommandEffect.vnull {s t : State} {i : Instr} (h : CommandEffect s i t) (hi : i ≠ .getca) :
    t.status.vnull = s.status.vnull := by
  cases h with
  | reads _ _ _ _ _ _ _ hv => exact hv hi
  | _ => rfl

theorem issue_frame {w : Word} {s t : State} (h : issue w s = .next t) :
    t.param = s.param ∧ t.status.wrej = s.status.wrej ∧ t.env = s.env := by
  rcases issue_effect h with ⟨_, _, he⟩ | ⟨_, rfl⟩
  · exact he.frame
  · exact ⟨rfl, rfl, rfl⟩

/-- Issue writes VNULL only for the one word of GETCA. -/
theorem issue_vnull {w : Word} {s t : State} (h : issue w s = .next t) (hw : w ≠ 0x24000000) :
    t.status.vnull = s.status.vnull := by
  rcases issue_effect h with ⟨i, hd, he⟩ | ⟨_, rfl⟩
  · exact he.vnull fun hi => hw (decode_eq_getca (hi ▸ hd))
  · rfl

theorem KeepsFlags.took (b : Byte) (s : State) : KeepsFlags s (s.took b) := ⟨by simp, by simp, by simp⟩

theorem decodeStep_frame {e : RxEvent} {s t : State} (h : decodeStep e s = .next t) : KeepsFlags s t ∧ t.env = s.env := by
  cases e with
  | eos => cases h; exact ⟨⟨rfl, rfl, rfl⟩, rfl⟩
  | err => cases h; exact ⟨⟨rfl, rfl, rfl⟩, rfl⟩
  | byte b =>
    have ht := KeepsFlags.took b s
    have hbody : KeepsFlags s (s.tookBody b) := { ht with }
    obtain ⟨_, ⟨e, _, rfl⟩ | ⟨_, rfl⟩⟩ | ⟨_, _, rfl⟩ | ⟨_, _, rfl⟩ := decodeByte_cases h
    · exact ⟨{ ht with }, s.took_env b⟩
    · exact ⟨ht, s.took_env b⟩
    · split_ifs <;> exact ⟨{ ht with }, s.took_env b⟩
    · split_ifs <;> exact ⟨{ hbody with }, s.took_env b⟩

/-- An ENCODE step changes nothing of the environment, or delivers one byte that TXSINK answered Ok. -/
theorem encodeStep_frame {a : TxAnswer} {s t : State} (h : encodeStep a s = .next t) :
    KeepsFlags s t ∧ (t.env = s.env ∨ a = .ok ∧ ∃ b, t.env = { s.env with txSent := s.env.txSent ++ [b] }) := by
  rcases encodeStep_cases h with ⟨_, rfl⟩ | ⟨ha, rfl⟩
  · exact ⟨⟨rfl, rfl, rfl⟩, .inl rfl⟩
  · split_ifs <;> exact ⟨⟨rfl, rfl, rfl⟩, .inr ⟨ha, _, rfl⟩⟩

theorem engineTurn_keepsFlags {s t : State} (h : engineTurn s = .next t) : KeepsFlags s t := by
  rcases engineTurn_cases h with ⟨rfl, _⟩ | ⟨_, _, _, _, hd⟩ | ⟨_, _, _, he⟩
  · exact .refl _
  · exact { (decodeStep_frame hd).1 with }
  · exact { (encodeStep_frame he).1 with }

/-! ### The configuration -/

theorem WriteEffect.param {addr : Addr} {n : Width} {v : Word} {s t : State} (h : WriteEffect addr n v s t) :
    t.param = s.param := by
  cases h with
  | ctrl _ _ => exact State.writeCtrl_param v _
  | issues _ _ _ _ hi => exact (issue_frame hi).1
  | _ => rfl

theorem TurnEffect.param {u : Turn} {s t : State} (h : TurnEffect s u t) : t.param = s.param := by
  cases h with
  | writes _ _ _ _ hw => exact hw.param
  | engine _ he => exact (engineTurn_keepsFlags he).param
  | rxsrc e => exact s.rxArrive_param e
  | attach => exact s.attachStreams_param
  | _ => rfl

/-- Settles O56: no turn's effect touches the configuration. -/
theorem configurationNeverChanges : Obligations.ConfigurationNeverChanges := by
  intro s t h
  obtain ⟨a, d, _, ht⟩ := step_effect h
  exact ht.param

/-! ### WREJ -/

/-- Everything a host write can do to WREJ (R38). -/
theorem WriteEffect.wrej {addr : Addr} {n : Width} {v : Word} {s t : State} (h : WriteEffect addr n v s t) :
    t.status.wrej = s.status.wrej ∨ (s.busy = true ∧ t.status.wrej = true) ∨
    (n = .four ∧ addr = 0x008 ∧ (v.getLsbD 0 = true ∨ v.getLsbD 1 = true) ∧ t.status.wrej = false) := by
  cases h with
  | ctrl hn ha =>
    rw [State.writeCtrl_status]
    split_ifs with h0 h1
    · exact .inr (.inr ⟨hn, ha, .inl h0, rfl⟩)
    · exact .inr (.inr ⟨hn, ha, .inr h1, rfl⟩)
    · exact .inl rfl
  | refused hb => exact .inr (.inl ⟨hb, rfl⟩)
  | issues _ _ _ _ hi => exact .inl (issue_frame hi).2.1
  | _ => exact .inl rfl

/-- Everything a turn can do to WREJ: keep it, set it by a refused host write, clear it by CLR or a reset. -/
theorem TurnEffect.wrej {u : Turn} {s t : State} (h : TurnEffect s u t) :
    t.status.wrej = s.status.wrej ∨
    (t.status.wrej = true ∧ s.busy = true ∧ ∃ addr n v, u = .host (.write addr n v)) ∨
    (t.status.wrej = false ∧ (ResetsBlock u ∨ ∃ v : Word, u = .host (.write 0x008 .four v) ∧ v.getLsbD 1 = true)) := by
  cases h with
  | writes addr n v _ hw =>
    rcases hw.wrej with hk | ⟨hb, ht⟩ | ⟨rfl, rfl, h0 | h1, ht⟩
    · exact .inl hk
    · exact .inr (.inl ⟨ht, hb, addr, n, v, rfl⟩)
    · exact .inr (.inr ⟨ht, .inl (.inr ⟨v, rfl, h0⟩)⟩)
    · exact .inr (.inr ⟨ht, .inr ⟨v, rfl, h1⟩⟩)
  | engine _ he => exact .inl (engineTurn_keepsFlags he).wrej
  | rxsrc e => exact .inl (by simp)
  | attach => exact .inl (by simp)
  | reset => exact .inr (.inr ⟨rfl, .inl (.inl rfl)⟩)
  | _ => exact .inl rfl

/-- Settles O54, from the three things a turn can do to WREJ. -/
theorem wrejIsSticky : Obligations.WrejIsSticky := by
  intro s t h
  obtain ⟨a, d, _, ht⟩ := step_effect h
  rcases ht.wrej with hk | ⟨hset, hb, hw⟩ | ⟨hclr, hc⟩
  · exact ⟨fun h1 h0 => by simp_all, fun h0 h1 => by simp_all⟩
  · exact ⟨fun _ h0 => by simp_all, fun _ _ => ⟨hb, hw⟩⟩
  · exact ⟨fun _ _ => hc, fun _ h1 => by simp_all⟩

/-! ### VNULL -/

/-- Everything a host write can do to VNULL (R41). -/
theorem WriteEffect.vnull {addr : Addr} {n : Width} {v : Word} {s t : State} (h : WriteEffect addr n v s t) :
    t.status.vnull = s.status.vnull ∨ (n = .four ∧ addr = 0x008 ∧ v.getLsbD 0 = true) ∨
    (s.busy = false ∧ n = .four ∧ addr = 0x010 ∧ v = 0x24000000) := by
  cases h with
  | ctrl hn ha =>
    rw [State.writeCtrl_status]
    split_ifs with h0 h1
    · exact .inr (.inl ⟨hn, ha, h0⟩)
    · exact .inl rfl
    · exact .inl rfl
  | issues hb hn ha _ hi =>
    by_cases hv : v = 0x24000000
    · exact .inr (.inr ⟨hb, hn, ha, hv⟩)
    · have hk := issue_vnull hi hv
      exact .inl hk
  | _ => exact .inl rfl

theorem TurnEffect.vnull {u : Turn} {s t : State} (h : TurnEffect s u t) :
    t.status.vnull = s.status.vnull ∨ ResetsBlock u ∨ (s.busy = false ∧ u = .host (.write 0x010 .four 0x24000000)) := by
  cases h with
  | writes addr n v _ hw =>
    rcases hw.vnull with hk | ⟨rfl, rfl, h0⟩ | ⟨hb, rfl, rfl, rfl⟩
    · exact .inl hk
    · exact .inr (.inl (.inr ⟨v, rfl, h0⟩))
    · exact .inr (.inr ⟨hb, rfl⟩)
  | engine _ he => exact .inl (engineTurn_keepsFlags he).vnull
  | rxsrc e => exact .inl (by simp)
  | attach => exact .inl (by simp)
  | reset => exact .inr (.inl (.inl rfl))
  | _ => exact .inl rfl

/-- Settles O55: of the turns, only a reset and the issue of GETCA's one word write VNULL. -/
theorem vnullWrittenOnlyByGetca : Obligations.VnullWrittenOnlyByGetca := by
  intro s t h hne
  obtain ⟨a, d, _, ht⟩ := step_effect h
  exact ht.vnull.resolve_left hne

/-! ### The streams -/

/-- A host write leaves both streams as they are. -/
theorem WriteEffect.streams {addr : Addr} {n : Width} {v : Word} {s t : State} (h : WriteEffect addr n v s t) :
    t.env.rxPending = s.env.rxPending ∧ t.env.txSent = s.env.txSent := by
  cases h with
  | ctrl _ _ => simp
  | issues _ _ _ _ hi =>
    rw [(issue_frame hi).2.2]
    exact ⟨rfl, rfl⟩
  | _ => exact ⟨rfl, rfl⟩

/-- A DECODE's turn takes the first event offered, if any, and delivers nothing. -/
theorem engineTurn_dec_streams {s t : State} (hdec : s.eng.eop = .dec) (h : engineTurn s = .next t) :
    t.env.rxPending = s.env.rxPending.tail ∧ t.env.txSent = s.env.txSent := by
  match hp : s.env.rxPending with
  | [] =>
    rw [engineTurn_dec_held hdec hp] at h
    cases h
    exact ⟨hp, rfl⟩
  | e :: rest =>
    rw [engineTurn_dec hdec hp] at h
    rw [(decodeStep_frame h).2]
    exact ⟨rfl, rfl⟩

/-- Any other ENGINE turn takes no event, and delivers at most one byte, an ENCODE's that TXSINK answered Ok. -/
theorem engineTurn_other_streams {s t : State} (hdec : s.eng.eop ≠ .dec) (h : engineTurn s = .next t) :
    t.env.rxPending = s.env.rxPending ∧ (t.env.txSent = s.env.txSent ∨
      (s.eng.eop = .enc ∧ s.env.txReady = some .ok ∧ ∃ b, t.env.txSent = s.env.txSent ++ [b])) := by
  rcases engineTurn_cases h with ⟨rfl, _⟩ | ⟨hd, _⟩ | ⟨henc, a, ha, he⟩
  · exact ⟨rfl, .inl rfl⟩
  · exact absurd hd hdec
  · rcases (encodeStep_frame he).2 with ht | ⟨rfl, b, ht⟩ <;> rw [ht]
    · exact ⟨rfl, .inl rfl⟩
    · exact ⟨rfl, .inr ⟨henc, ha, b, rfl⟩⟩

theorem State.rxArrive_streams (e : RxEvent) (s : State) :
    s.env.rxPending <+: (s.rxArrive e).env.rxPending ∧ (s.rxArrive e).env.txSent = s.env.txSent := by
  unfold State.rxArrive
  split_ifs
  · exact ⟨List.prefix_rfl, rfl⟩
  · exact ⟨List.prefix_append _ _, rfl⟩

theorem TurnEffect.rxPending_tail {s t : State} (h : TurnEffect s .engine t) (hdec : s.eng.eop = .dec) :
    t.env.rxPending = s.env.rxPending.tail := by
  cases h with
  | engine _ he => exact (engineTurn_dec_streams hdec he).1

theorem TurnEffect.rxPending {u : Turn} {s t : State} (h : TurnEffect s u t) (hu : u ≠ .attach)
    (hdec : ¬ (u = .engine ∧ s.eng.eop = .dec)) : s.env.rxPending <+: t.env.rxPending := by
  cases h with
  | writes _ _ _ _ hw => rw [hw.streams.1]
  | engine _ he => rw [(engineTurn_other_streams (fun hd => hdec ⟨rfl, hd⟩) he).1]
  | rxsrc e => exact (s.rxArrive_streams e).1
  | attach => exact absurd rfl hu
  | _ => exact List.prefix_rfl

theorem TurnEffect.txSent {u : Turn} {s t : State} (h : TurnEffect s u t) (hu : u ≠ .attach) :
    t.env.txSent = s.env.txSent ∨
    (u = .engine ∧ s.eng.eop = .enc ∧ s.env.txReady = some .ok ∧ ∃ b, t.env.txSent = s.env.txSent ++ [b]) := by
  cases h with
  | writes _ _ _ _ hw => exact .inl hw.streams.2
  | engine _ he =>
    by_cases hd : s.eng.eop = .dec
    · exact .inl (engineTurn_dec_streams hd he).2
    · exact (engineTurn_other_streams hd he).2.imp_right fun hs => ⟨rfl, hs⟩
  | rxsrc e => exact .inl (s.rxArrive_streams e).2
  | attach => exact absurd rfl hu
  | _ => exact .inl rfl

/-- Settles O59: a DECODE's turn takes the first event, no other turn but `attach` takes any, and only an ENCODE's turn
delivers. -/
theorem streamOrder : Obligations.StreamOrder := by
  intro s t h
  obtain ⟨a, d, _, ht⟩ := step_effect h
  refine ⟨fun hu hdec => ?_, ht.rxPending, ht.txSent⟩
  rw [hu] at ht
  exact ht.rxPending_tail hdec

end Sys2Proof.Machine
end

section
/-! PROOF. What the host port shows of the state: the register map (10_state.md R26 to R48), the STATUS word (R34), register
writes (R45, R53), and the reset values (R59). -/
namespace Sys2Proof.Machine

/-! ### The words of the packed registers -/

/-- PARAM's fields, at the width they add up to (R32). -/
theorem State.paramWord_toNat (s : State) : s.paramWord.toNat =
    (0#19 ++ BitVec.ofNat 5 s.param.txLog2.val ++ 0#3 ++ BitVec.ofNat 5 s.param.rxLog2.val).toNat := rfl

/-- PARAM's two fields as one number (R32). -/
theorem State.paramWord_eq (s : State) :
    s.paramWord = BitVec.ofNat 32 (s.param.txLog2.val * 256 + s.param.rxLog2.val) := by
  have ht := s.param.txLog2.inRange.2
  have hr := s.param.rxLog2.inRange.2
  apply BitVec.eq_of_toNat_eq
  simp only [State.paramWord_toNat, BitVec.toNat_append, BitVec.toNat_ofNat, Nat.zero_mod, Nat.zero_shiftLeft,
    Nat.zero_or, Nat.or_zero]
  rw [← Nat.shiftLeft_add_eq_or_of_lt (by omega), Nat.shiftLeft_eq, Nat.shiftLeft_eq]
  omega

/-- CTRL reads IE in bit 2 (R33). -/
theorem State.ctrlWord_eq (s : State) : s.ctrlWord = if s.ie then 4 else 0 := by
  cases h : s.ie <;> simp [State.ctrlWord, h]

/-- The STATUS word's fields, at the width they add up to (R34). -/
theorem State.statusWord_extractLsb' (s : State) (i n : Nat) :
    s.statusWord.extractLsb' i n =
      (0#8 ++ s.status.lastOpc ++ 0#4 ++ BitVec.ofBool s.irq ++ BitVec.ofBool s.status.vnull ++
        BitVec.ofBool s.status.txClosed ++ BitVec.ofBool s.status.rxClosed ++ s.status.errCode.code ++
        BitVec.ofBool s.status.wrej ++ BitVec.ofBool s.status.err ++ BitVec.ofBool s.status.done ++
        BitVec.ofBool s.busy).extractLsb' i n := rfl

/-- The one-bit fields of the STATUS word (R34). -/
theorem State.statusWord_flags (s : State) :
    s.statusWord.extractLsb' 0 1 = BitVec.ofBool s.busy ∧
    s.statusWord.extractLsb' 1 1 = BitVec.ofBool s.status.done ∧
    s.statusWord.extractLsb' 2 1 = BitVec.ofBool s.status.err ∧
    s.statusWord.extractLsb' 3 1 = BitVec.ofBool s.status.wrej ∧
    s.statusWord.extractLsb' 8 1 = BitVec.ofBool s.status.rxClosed ∧
    s.statusWord.extractLsb' 9 1 = BitVec.ofBool s.status.txClosed ∧
    s.statusWord.extractLsb' 10 1 = BitVec.ofBool s.status.vnull ∧
    s.statusWord.extractLsb' 11 1 = BitVec.ofBool s.irq := by
  simp (disch := decide) only [State.statusWord_extractLsb', BitVec.extractLsb'_append_eq_of_add_le,
    BitVec.extractLsb'_append_eq_of_le, Nat.reduceSub, BitVec.extractLsb'_eq_self, and_self]

/-- The wider fields of the STATUS word (R34). -/
theorem State.statusWord_ranges (s : State) :
    s.statusWord.extractLsb' 4 4 = s.status.errCode.code ∧ s.statusWord.extractLsb' 12 4 = 0 ∧
    s.statusWord.extractLsb' 16 8 = s.status.lastOpc ∧ s.statusWord.extractLsb' 24 8 = 0 := by
  simp (disch := decide) only [State.statusWord_extractLsb', BitVec.extractLsb'_append_eq_of_add_le,
    BitVec.extractLsb'_append_eq_of_le, Nat.reduceSub, BitVec.extractLsb'_eq_self, BitVec.ofNat_eq_ofNat, and_self]

theorem Word.getLsbD_of_extractLsb' {w : Word} {i : Nat} {b : Bool} (h : w.extractLsb' i 1 = BitVec.ofBool b) :
    w.getLsbD i = b := by
  simpa using congrArg (·.getLsbD 0) h

/-- The table of R240: every error has its own number. -/
theorem ErrCode.eq_iff_code (e : ErrCode) :
    ∀ p ∈ [(ErrCode.noError, 0), (.truncatedFrame, 1), (.malformedHeader, 2), (.frameTooLarge, 3), (.endOfStream, 4),
        (.rxReadFail, 5), (.rxClosedErr, 6), (.txWriteFail, 7), (.txClosedErr, 8), (.illegalCmd, 9), (.endOfData, 10),
        (.bufFull, 11), (.varintOverflow, 12)], e = p.1 ↔ e.code.toNat = p.2 := by
  cases e <;> decide

/-- Settles O41, from the fields of the STATUS word and the numbers of the errors. -/
theorem statusWordFields : Obligations.StatusWordFields := by
  intro s
  obtain ⟨hbusy, hdone, herr, hwrej, hrxc, htxc, hvnull, hirq⟩ := s.statusWord_flags
  obtain ⟨hcode, hzero, hopc, hhigh⟩ := s.statusWord_ranges
  refine ⟨?_, Word.getLsbD_of_extractLsb' hdone, Word.getLsbD_of_extractLsb' herr, Word.getLsbD_of_extractLsb' hwrej, hcode,
    ?_, Word.getLsbD_of_extractLsb' hrxc, Word.getLsbD_of_extractLsb' htxc, Word.getLsbD_of_extractLsb' hvnull,
    Word.getLsbD_of_extractLsb' hirq, hzero, hopc, hhigh⟩
  · rw [Word.getLsbD_of_extractLsb' hbusy, State.busy_eq_true]
  · rw [hcode]
    exact s.status.errCode.eq_iff_code

/-! ### Register reads and writes -/

/-- A 4-byte host read at a register's offset answers the register. -/
theorem State.hostRead_reg (s : State) (r : Reg) {addr : Addr} (h : addr.toNat = r.offset) :
    s.hostRead addr .four = .okRead (s.readReg r) := by
  rw [State.hostRead, target_reg s.param r addr h]

/-- Settles O40: at each offset stands its register, and the packed ones read as their fields. -/
theorem registersReadAtTheirOffsets : Obligations.RegistersReadAtTheirOffsets := by
  intro s
  refine ⟨s.hostRead_reg .id rfl, ?_, ?_, s.hostRead_reg .status rfl, s.hostRead_reg .cmd rfl, s.hostRead_reg .value rfl,
    s.hostRead_reg .rxSize rfl, s.hostRead_reg .rxApiKey rfl, s.hostRead_reg .rxApiVersion rfl,
    s.hostRead_reg .rxCorrId rfl, s.hostRead_reg .rxBodyLen rfl, s.hostRead_reg .rxPos rfl, s.hostRead_reg .rxCount rfl,
    s.hostRead_reg .txCorrId rfl, s.hostRead_reg .txLen rfl, s.hostRead_reg .txCount rfl⟩
  · rw [← s.paramWord_eq]
    exact s.hostRead_reg .param rfl
  · rw [← s.ctrlWord_eq]
    exact s.hostRead_reg .ctrl rfl

/-- The register at a multiple of 4 below 0x40 (R29). -/
theorem Reg.exists_offset {a : Nat} (h : a < 0x40) (h4 : a % 4 = 0) : ∃ r : Reg, r.offset = a := by
  have hall : ∀ k < 16, ∃ r ∈ Reg.all, r.offset = 4 * k := by decide
  obtain ⟨r, _, hr⟩ := hall (a / 4) (by omega)
  exact ⟨r, by omega⟩

/-- The registers a host may write stand at four offsets (R27). -/
theorem Reg.access_eq_ro {r : Reg} (h : r.offset ∉ [0x008, 0x010, 0x014, 0x034]) : r.access = .ro := by
  revert h
  cases r <;> decide

theorem runTurn_write_reg (r : Reg) {addr : Addr} (h : addr.toNat = r.offset) (v : Word) (s : State) :
    runTurn (.host (.write addr .four v)) s = writeReg r v (s.respond .okWrite) := hostWrite_reg r addr v s h

theorem writeReg_ctrl (v : Word) (s : State) : writeReg .ctrl v s = .next (s.writeCtrl v) := rfl

theorem writeReg_ro {r : Reg} (h : r.access = .ro) (v : Word) (s : State) : writeReg r v s = .next s := by
  rw [writeReg, h]

theorem writeReg_rw {r : Reg} (h : r.access = .rw) (v : Word) {s : State} (hb : s.busy = false) :
    writeReg r v s = .next (s.storeReg r v) := by
  simp [writeReg, h, hb]

/-- Settles O45, from the access classes of the registers. -/
theorem registerWrites : Obligations.RegisterWrites := by
  intro s v hb
  have hb' : (s.respond .okWrite).busy = false := hb
  refine ⟨?_, ?_, fun addr h40 h4 hro => ?_⟩
  · rw [runTurn_write_reg .value rfl, writeReg_rw rfl v hb']
    rfl
  · rw [runTurn_write_reg .txCorrId rfl, writeReg_rw rfl v hb']
    rfl
  · obtain ⟨r, hr⟩ := Reg.exists_offset h40 h4
    rw [runTurn_write_reg r hr.symm, writeReg_ro (Reg.access_eq_ro (hr ▸ hro))]
    rfl

/-! ### The reset values -/

theorem State.statusWord_resetBlock (s : State) : s.resetBlock.statusWord = 0 := by
  have h : s.resetBlock.statusWord = State.reset.statusWord := rfl
  rw [h]
  decide

/-- A reset leaves every register but ID and PARAM reading 0 (R59). -/
theorem State.readReg_resetBlock (s : State) {r : Reg} (hid : r ≠ .id) (hp : r ≠ .param) : s.resetBlock.readReg r = 0 := by
  cases r with
  | id => exact absurd rfl hid
  | param => exact absurd rfl hp
  | ctrl => exact s.resetBlock.ctrlWord_eq
  | status => exact s.statusWord_resetBlock
  | _ => rfl

theorem State.writeCtrl_srst {v : Word} (h : v.getLsbD 0 = true) (s : State) : s.writeCtrl v = s.resetBlock := by
  rw [State.writeCtrl, if_pos h]

/-- Settles O48: a reset, by RST or by CTRL.SRST, is `State.resetBlock`. -/
theorem resetLeavesResetValues : Obligations.ResetLeavesResetValues := by
  intro s
  refine ⟨s.resetBlock, rfl, fun v hv => ?_, fun _ => s.readReg_resetBlock, rfl, s.resetBlock.paramWord_eq, rfl, rfl, rfl,
    rfl, rfl, rfl, fun _ => rfl, rfl⟩
  rw [runTurn_write_reg .ctrl rfl, writeReg_ctrl, State.writeCtrl_srst hv]
  rfl

/-- Settles O49: power-up is a reset with the default configuration and nothing written. -/
theorem powerUpState : Obligations.PowerUpState :=
  ⟨fun _ => State.reset.readReg_resetBlock, rfl, State.reset.paramWord_eq, rfl, rfl, fun _ => rfl, fun _ => rfl⟩

end Sys2Proof.Machine
end

section
/-! PROOF. No step stops from a state that meets the invariant: the only stops are a GET, a DECODE's body byte and an
ENCODE's body byte beyond their buffer (20_memory.md R74), and R58 keeps all three inside. -/
namespace Sys2Proof.Machine

theorem safe_next (t : State) : Safe (.next t) := ⟨t, rfl⟩

/-- A choice between safe answers is safe. -/
theorem Safe.ite {p : Prop} [Decidable p] {o₁ o₂ : Out} (h₁ : Safe o₁) (h₂ : Safe o₂) : Safe (if p then o₁ else o₂) := by
  split_ifs
  · exact h₁
  · exact h₂

/-! ### Commands -/

theorem putBytes_safe (L : List Byte) (s : State) : Safe (putBytes L s) := .ite (safe_next _) (safe_next _)

theorem appendCa_safe (v : Word) (s : State) : Safe (appendCa v s) := .ite (safe_next _) (putBytes_safe _ s)

theorem withBody_safe {s : State} {k : Out} (h : s.rx.bodyLen.toNat ≤ s.param.rxBytes) (hk : Safe k) :
    Safe (withBody s k) := by
  rwa [withBody_of_le k h]

theorem getBytes_safe (n : Nat) (k : List Byte → State → State) {s : State}
    (h : s.rx.bodyLen.toNat ≤ s.param.rxBytes) : Safe (getBytes n k s) :=
  withBody_safe h (.ite (safe_next _) (safe_next _))

theorem getVarint_safe (k : Word → State → State) {s : State} (h : s.rx.bodyLen.toNat ≤ s.param.rxBytes) :
    Safe (getVarint k s) := by
  refine withBody_safe h ?_
  split
  · exact safe_next _
  · exact safe_next _

/-- Every command goes on while RX_BODY_LEN fits RXBUF. -/
theorem exec_safe (i : Instr) {s : State} (h : s.rx.bodyLen.toNat ≤ s.param.rxBytes) : Safe (exec i s) := by
  cases i with
  | decode | encode | rxseek | txseek => exact .ite (safe_next _) (safe_next _)
  | put8 | put8i | put16 | put16i | put32 | put32i | putuv | putuvi | putcan => exact putBytes_safe _ _
  | putca | putcai => exact appendCa_safe _ _
  | get8 | get16 | get32 =>
    rw [exec]
    exact getBytes_safe _ _ h
  | getuv | getca =>
    rw [exec]
    exact getVarint_safe _ h

/-- Every GET stops where RX_BODY_LEN exceeds RXBUF. -/
theorem exec_get_fault {i : Instr} (hi : isGet i = true) {s : State} (h : s.param.rxBytes < s.rx.bodyLen.toNat) :
    exec i s = .fault .rxIndex := by
  cases i with
  | get8 | get16 | get32 | getuv | getca => exact withBody_of_lt _ h
  | _ => cases hi

/-- Settles O24: a GET stops on its body check, and goes on once past it. -/
theorem getStopsOnlyBeyondTheBuffer : Obligations.GetStopsOnlyBeyondTheBuffer := by
  intro s i hi
  have hget : ∀ i ∈ [Instr.get8, .get16, .get32, .getuv, .getca], isGet i = true := by decide
  refine ⟨⟨fun hf => ?_, exec_get_fault (hget i hi)⟩, exec_safe i⟩
  by_contra hle
  obtain ⟨t, ht⟩ := exec_safe i (s := s) (by omega)
  cases hf.symm.trans ht

/-! ### Host accesses -/

theorem issue_safe (w : Word) {s : State} (h : s.rx.bodyLen.toNat ≤ s.param.rxBytes) : Safe (issue w s) := by
  rw [issue]
  split
  · exact exec_safe _ h
  · exact safe_next _

theorem writeReg_safe (r : Reg) (v : Word) {s : State} (h : s.rx.bodyLen.toNat ≤ s.param.rxBytes) :
    Safe (writeReg r v s) := by
  rw [writeReg]
  split
  · exact safe_next _
  · exact safe_next _
  · exact .ite (safe_next _) (issue_safe v h)
  · exact .ite (safe_next _) (safe_next _)

theorem hostWrite_safe (addr : Addr) (n : Width) (v : Word) {s : State} (h : s.rx.bodyLen.toNat ≤ s.param.rxBytes) :
    Safe (hostWrite addr n v s) := by
  rw [hostWrite]
  split
  · exact safe_next _
  · exact safe_next _
  · exact writeReg_safe _ v h
  · exact .ite (safe_next _) (safe_next _)

/-! ### The ENGINE -/

theorem decodeByte_safe (b : Byte) {s : State} (h : s.rx.count.toNat < 12 + s.param.rxBytes) :
    Safe (decodeByte b s) := by
  by_cases h3 : s.rx.count.toNat = 3
  · match he : sizeError (s.took b).rx.size s.param.rxBytes with
    | some e => exact ⟨_, decodeByte_bad h3 he⟩
    | none => exact ⟨_, decodeByte_size h3 he⟩
  by_cases h12 : s.rx.count.toNat < 12
  · exact ⟨_, decodeByte_header h3 h12⟩
  · exact ⟨_, decodeByte_body (by omega) (by omega)⟩

theorem decodeStep_safe (e : RxEvent) {s : State} (h : s.rx.count.toNat < 12 + s.param.rxBytes) :
    Safe (decodeStep e s) := by
  cases e with
  | byte b => exact decodeByte_safe b h
  | eos | err => exact safe_next _

theorem encodeStep_safe (a : TxAnswer) {s : State} (h : s.tx.count.toNat < 8 + s.param.txBytes) :
    Safe (encodeStep a s) := by
  cases a with
  | ok => exact ⟨_, encodeStep_ok (by omega)⟩
  | err => exact ⟨_, encodeStep_err (by omega)⟩

/-- The byte a running DECODE takes next is a header byte or has room in RXBUF: its size has been accepted (R153). -/
theorem State.Inv.rx_count_lt {s : State} (h : s.Inv) (hdec : s.eng.eop = .dec) :
    s.rx.count.toNat < 12 + s.param.rxBytes := by
  by_cases h4 : 4 ≤ s.rx.count.toNat
  · obtain ⟨hsize, hlt⟩ := h.engine.dec_size hdec h4
    have hfits := (sizeError_eq_none.1 hsize).2
    omega
  · omega

/-- The byte a running ENCODE offers next is a header byte or stands in TXBUF. -/
theorem State.Inv.tx_count_lt {s : State} (h : s.Inv) (henc : s.eng.eop = .enc) :
    s.tx.count.toNat < 8 + s.param.txBytes := by
  obtain ⟨hlen, hlt⟩ := h.engine.enc_len henc
  omega

theorem engineTurn_safe {s : State} (h : s.Inv) : Safe (engineTurn s) := by
  match he : s.eng.eop with
  | .idle => exact ⟨_, engineTurn_idle he⟩
  | .dec =>
    match hp : s.env.rxPending with
    | [] => exact ⟨_, engineTurn_dec_held he hp⟩
    | e :: rest =>
      rw [engineTurn_dec he hp]
      exact decodeStep_safe e (h.rx_count_lt he)
  | .enc =>
    match hr : s.env.txReady with
    | none => exact ⟨_, engineTurn_enc_held he hr⟩
    | some a =>
      rw [engineTurn_enc he hr]
      exact encodeStep_safe a (h.tx_count_lt he)

/-! ### Steps -/

theorem runTurn_safe (u : Turn) {s : State} (h : s.Inv) : Safe (runTurn u s) := by
  cases u with
  | host a =>
    cases a with
    | read addr n => exact safe_next _
    | write addr n v => exact hostWrite_safe addr n v h.r58.bodyLen_le
  | engine => exact engineTurn_safe h
  | rxsrc | txsink | attach | reset => exact safe_next _

/-- Settles O52: every turn is safe from a state that meets the invariant, which taking the turn off the agenda keeps. -/
theorem invariantMakesStepsSafe : Obligations.InvariantMakesStepsSafe := by
  intro s h
  obtain ⟨a, d, hs⟩ := s.afterTurn_eq
  have hsafe := runTurn_safe s.nextTurn (h.withAgenda a d)
  rwa [← hs] at hsafe

/-- Settles O5, from what the next turn is and what taking it leaves. -/
theorem stepTakesTheNextTurn : Obligations.StepTakesTheNextTurn := by
  intro s
  constructor
  · intro t rest h
    rw [step, takeTurn, State.nextTurn, State.afterTurn, h]
  · intro h
    rw [step, takeTurn, State.nextTurn, State.afterTurn, h]

end Sys2Proof.Machine
end

section
/-! PROOF. Host accesses to the buffer windows (20_memory.md R76 to R82, R93): big-endian lanes, bus errors, and the writes
refused while BUSY. -/
namespace Sys2Proof.Machine

/-- Settles O39: the host's read records its answer and nothing else. -/
theorem hostReadHasNoSideEffect : Obligations.HostReadHasNoSideEffect :=
  fun _ _ _ => ⟨_, rfl, rfl, rfl⟩

/-! ### Big-endian lanes -/

/-- Byte `j` of the `n` low bytes of a word, most significant first (R81). -/
theorem beBytes_getElem {n j : Nat} (v : Word) (h : j < (beBytes n v).length) :
    (beBytes n v)[j] = v.extractLsb' (8 * (n - j) - 8) 8 := by
  have hj : 8 * (n - 1 - j) = 8 * (n - j) - 8 := by omega
  ext i hi
  simp [beBytes, hj]

section Reads
variable (s : State) {addr : Addr} {o : Nat}

theorem State.hostRead_rxBuf_four (h : addr.toNat = rxBase + o) (hb : o + 4 ≤ s.param.rxBytes) (ha : o % 4 = 0) :
    s.hostRead addr .four = .okRead (s.rxByte o ++ s.rxByte (o + 1) ++ s.rxByte (o + 2) ++ s.rxByte (o + 3)) := by
  rw [s.hostRead_rxBuf addr .four o h hb ha, Width.bytes, State.rxBytesAt_four, beJoin_four]

theorem State.hostRead_rxBuf_two (h : addr.toNat = rxBase + o) (hb : o + 2 ≤ s.param.rxBytes) (ha : o % 2 = 0) :
    s.hostRead addr .two = .okRead ((s.rxByte o ++ s.rxByte (o + 1)).setWidth 32) := by
  rw [s.hostRead_rxBuf addr .two o h hb ha, Width.bytes, State.rxBytesAt_two, beJoin_two]

theorem State.hostRead_rxBuf_one (h : addr.toNat = rxBase + o) (hb : o < s.param.rxBytes) :
    s.hostRead addr .one = .okRead ((s.rxByte o).setWidth 32) := by
  rw [s.hostRead_rxBuf addr .one o h hb o.mod_one, Width.bytes, State.rxBytesAt_one, beJoin_one]

theorem State.hostRead_txBuf_four (h : addr.toNat = txBase + o) (hb : o + 4 ≤ s.param.txBytes) (ha : o % 4 = 0) :
    s.hostRead addr .four = .okRead (s.txByte o ++ s.txByte (o + 1) ++ s.txByte (o + 2) ++ s.txByte (o + 3)) := by
  rw [s.hostRead_txBuf addr .four o h hb ha, Width.bytes, State.txBytesAt_four, beJoin_four]

theorem State.hostRead_txBuf_two (h : addr.toNat = txBase + o) (hb : o + 2 ≤ s.param.txBytes) (ha : o % 2 = 0) :
    s.hostRead addr .two = .okRead ((s.txByte o ++ s.txByte (o + 1)).setWidth 32) := by
  rw [s.hostRead_txBuf addr .two o h hb ha, Width.bytes, State.txBytesAt_two, beJoin_two]

theorem State.hostRead_txBuf_one (h : addr.toNat = txBase + o) (hb : o < s.param.txBytes) :
    s.hostRead addr .one = .okRead ((s.txByte o).setWidth 32) := by
  rw [s.hostRead_txBuf addr .one o h hb o.mod_one, Width.bytes, State.txBytesAt_one, beJoin_one]

end Reads

/-- Settles O42: reads join the bytes, and a write stores the bytes of its word. -/
theorem bufferWindowsAreBigEndian : Obligations.BufferWindowsAreBigEndian := by
  intro s addr o
  refine ⟨⟨s.hostRead_rxBuf_four, s.hostRead_rxBuf_two, s.hostRead_rxBuf_one⟩,
    ⟨s.hostRead_txBuf_four, s.hostRead_txBuf_two, s.hostRead_txBuf_one⟩, fun n v ha hb hm hbusy => ?_⟩
  refine ⟨_, hostWrite_txBuf s addr n v o ha hb hm hbusy, fun j hj => ?_, fun a hout => ?_, rfl⟩
  · have hlen : j < (beBytes n.bytes v).length := by rwa [beBytes_length]
    rw [State.txByte_setTxBytes _ _ _ _ hlen, beBytes_getElem]
  · have hother : ¬ (txBase + o ≤ a ∧ a < txBase + o + (beBytes n.bytes v).length) := by rwa [beBytes_length]
    exact State.byteAt_setTxBytes_other (s.respond .okWrite) _ hother

/-- The first four bytes of TXBUF are what every aligned read of them answers (R81, R93). -/
theorem State.readsAllWidths (s : State) : ReadsAllWidths (s.txBytesAt 0 4) s := by
  have hsize := s.param.le_txBytes
  rw [State.txBytesAt_four]
  exact
    { four := s.hostRead_txBuf_four rfl (by omega) rfl
      two := ⟨s.hostRead_txBuf_two rfl (by omega) rfl, s.hostRead_txBuf_two rfl (by omega) rfl⟩
      one := ⟨s.hostRead_txBuf_one rfl (by omega), s.hostRead_txBuf_one rfl (by omega),
        s.hostRead_txBuf_one rfl (by omega), s.hostRead_txBuf_one rfl (by omega)⟩ }

theorem State.txBytesAt_of_mem {s t : State} (h : t.mem = s.mem) (i n : Nat) : t.txBytesAt i n = s.txBytesAt i n := by
  simp only [State.txBytesAt, State.txByte, State.byteAt_of_mem h]

/-- A byte of TXBUF after a store of `L` at offset `o`: of `L` where it was stored, the old one elsewhere. -/
theorem State.txByte_setTxBytes_eq_ite (s : State) (o : Nat) (L : List Byte) (j : Nat) :
    (s.setTxBytes o L).txByte j = if o ≤ j ∧ j < o + L.length then L.getD (j - o) 0 else s.txByte j := by
  split_ifs with hj
  · obtain ⟨k, rfl⟩ := Nat.exists_eq_add_of_le hj.1
    have hk : k < L.length := by omega
    rw [s.txByte_setTxBytes o L k hk, Nat.add_sub_cancel_left, List.getD_eq_getElem _ _ hk]
  · exact s.byteAt_setTxBytes_other L (by omega)

/-- The first four bytes of TXBUF after a store. -/
theorem State.txBytesAt_setTxBytes (s : State) (o : Nat) (L : List Byte) :
    (s.setTxBytes o L).txBytesAt 0 4 =
      (List.range 4).map fun j => if o ≤ j ∧ j < o + L.length then L.getD (j - o) 0 else s.txByte j := by
  simp only [State.txBytesAt, State.txByte_setTxBytes_eq_ite, Nat.zero_add]

/-- The bytes a PUT16I appends (R112, R184). -/
theorem beBytes_two_immOperand (imm : Half) :
    beBytes 2 (immOperand imm) = [imm.extractLsb' 8 8, imm.extractLsb' 0 8] := by
  have hext (k : Nat) (hk : k ≤ 8) : (immOperand imm).extractLsb' k 8 = imm.extractLsb' k 8 := by
    ext i hi
    simp [immOperand]
    omega
  rw [beBytes_two, hext 8 (by decide), hext 0 (by decide)]

/-- A PUT at the start of TXBUF stores its bytes, which every width reads (R93, R180). -/
theorem putBytes_readsAllWidths {s : State} {L : List Byte} (h : s.tx.len.toNat = 0) (hL : L.length ≤ 16) :
    ∃ t, putBytes L s = .next t ∧ ReadsAllWidths ((s.setTxBytes 0 L).txBytesAt 0 4) t := by
  have hroom : s.tx.len.toNat + L.length ≤ s.param.txBytes := by
    have := s.param.le_txBytes
    omega
  have hmem : (s.appended L).mem = (s.setTxBytes 0 L).mem := by
    rw [State.setTxBytes_mem, ← h]
    rfl
  refine ⟨_, putBytes_room hroom, ?_⟩
  rw [← State.txBytesAt_of_mem hmem]
  exact State.readsAllWidths _

/-- A host write among the first four bytes of TXBUF stores its bytes, which every width reads (R81). -/
theorem hostWrite_readsAllWidths {s : State} (hb : s.busy = false) (addr : Addr) (n : Width) (v : Word) {o : Nat}
    (h : addr.toNat = txBase + o) (ho : o + n.bytes ≤ 4) (ha : o % n.bytes = 0) :
    ∃ t, runTurn (.host (.write addr n v)) s = .next t ∧
      ReadsAllWidths ((s.setTxBytes o (beBytes n.bytes v)).txBytesAt 0 4) t :=
  have hroom : o + n.bytes ≤ s.param.txBytes := by
    have := s.param.le_txBytes
    omega
  ⟨_, hostWrite_txBuf s addr n v o h hroom ha hb, State.readsAllWidths ((s.respond .okWrite).setTxBytes o _)⟩

/-- Settles O47: each write is a store into TXBUF, and its first four bytes fix every read. -/
theorem mixedWidthRead : Obligations.MixedWidthRead := by
  intro s
  refine ⟨fun imm hlen => ?_, fun hb v => ⟨?_, ?_, ?_⟩⟩
  · have hput := putBytes_readsAllWidths (s := s.beginIssue 0x11) (L := beBytes 2 (immOperand imm))
      (congrArg BitVec.toNat hlen) (by rw [beBytes_length]; decide)
    rwa [State.txBytesAt_setTxBytes, beBytes_two_immOperand] at hput
  · have hfour := hostWrite_readsAllWidths hb 0x20000 .four v (o := 0) rfl (by decide) rfl
    rwa [State.txBytesAt_setTxBytes, Width.bytes, beBytes_four] at hfour
  · have htwo := hostWrite_readsAllWidths hb 0x20002 .two v (o := 2) rfl (by decide) rfl
    rwa [State.txBytesAt_setTxBytes, Width.bytes, beBytes_two] at htwo
  · have hone := hostWrite_readsAllWidths hb 0x20001 .one v (o := 1) rfl (by decide) rfl
    rwa [State.txBytesAt_setTxBytes, Width.bytes, beBytes_one] at hone

/-! ### Bus errors -/

/-- Registers stand at the multiples of 4 below 0x40 (R29). -/
theorem Reg.offset_lt_and_mod (r : Reg) : r.offset < 0x40 ∧ r.offset % 4 = 0 := by cases r <;> decide

/-- What an access reaches is aligned to the access's width (R79). -/
theorem target_aligned {p : Param} {addr : Addr} {n : Width} {x : Target} (h : target p addr n = some x) :
    addr.toNat % n.bytes = 0 := by
  rcases target_cases h with ⟨r, rfl, rfl, ha⟩ | ⟨o, rfl, _, _⟩ | ⟨o, rfl, _, _⟩
  · rw [ha]
    exact r.offset_lt_and_mod.2
  all_goals
    simp only [target] at h
    split_ifs at h with _ _ hrx htx
    · simp at h
    · obtain ⟨_, _, hal⟩ := hrx
      exact hal
    · obtain ⟨_, _, hal⟩ := htx
      exact hal

theorem hostRead_of_target_eq_none {s : State} {addr : Addr} {n : Width} (h : target s.param addr n = none) :
    s.hostRead addr n = .busErr := by
  rw [State.hostRead, h]

/-- The accesses R79 makes bus errors reach nothing. -/
theorem target_eq_none_of_bad {p : Param} {addr : Addr} {n : Width}
    (h : (0x40 ≤ addr.toNat ∧ addr.toNat < 0x10000) ∨ 0x30000 ≤ addr.toNat ∨
      (addr.toNat < 0x1000 ∧ (n ≠ .four ∨ addr.toNat % 4 ≠ 0)) ∨ addr.toNat % n.bytes ≠ 0 ∨
      (0x10000 ≤ addr.toNat ∧ addr.toNat < 0x20000 ∧ p.rxBytes < addr.toNat - 0x10000 + n.bytes) ∨
      (0x20000 ≤ addr.toNat ∧ addr.toNat < 0x30000 ∧ p.txBytes < addr.toNat - 0x20000 + n.bytes)) :
    target p addr n = none := by
  rw [Option.eq_none_iff_forall_ne_some]
  intro x hx
  have hal := target_aligned hx
  have hrx := p.rxBytes_le
  have htx := p.txBytes_le
  have hn : 1 ≤ n.bytes := by cases n <;> decide
  rcases target_cases hx with ⟨r, -, rfl, ha⟩ | ⟨o, -, ha, ho⟩ | ⟨o, -, ha, ho⟩
  · have := r.offset_lt_and_mod
    simp only [Width.bytes, ne_eq, not_true_eq_false, false_or] at h hal
    omega
  · simp only [rxBase] at ha
    omega
  · simp only [txBase] at ha
    omega

/-- A host write to the RXBUF window is a bus error, whether it reaches a byte or not (R82). -/
theorem hostWrite_rxWindow {s : State} {addr : Addr} (n : Width) (v : Word)
    (h : 0x10000 ≤ addr.toNat ∧ addr.toNat < 0x20000) : hostWrite addr n v s = .next (s.respond .busErr) := by
  match ht : target s.param addr n with
  | none => exact hostWrite_none ht
  | some x =>
    rcases target_cases ht with ⟨r, rfl, _, ha⟩ | ⟨o, rfl, _, _⟩ | ⟨o, rfl, ha, _⟩
    · have := r.offset_lt_and_mod
      omega
    · rw [hostWrite, ht]
    · rw [txBase] at ha
      omega

/-- Settles O43: the bad accesses reach nothing, and a write to the RXBUF window is answered the same. -/
theorem busErrorsChangeNothing : Obligations.BusErrorsChangeNothing := by
  intro s addr n v a bad
  constructor
  · intro h
    have hread := hostRead_of_target_eq_none (target_eq_none_of_bad h)
    rw [runTurn, hostTurn, hread]
    rfl
  · rintro (h | h)
    · exact hostWrite_none (target_eq_none_of_bad h)
    · exact hostWrite_rxWindow n v h

/-! ### Writes while BUSY -/

theorem writeReg_busy {r : Reg} (hr : r.access = .wo ∨ r.access = .rw) (v : Word) {s : State} (hb : s.busy = true) :
    writeReg r v s = .next s.rejectWrite := by
  rcases hr with h | h <;> rw [writeReg, h] <;> exact if_pos hb

/-- A host write inside TXBUF while BUSY. -/
theorem hostWrite_txBuf_busy {s : State} {addr : Addr} {n : Width} (v : Word) {o : Nat} (h : addr.toNat = txBase + o)
    (hb : o + n.bytes ≤ s.param.txBytes) (ha : o % n.bytes = 0) (hbusy : s.busy = true) :
    hostWrite addr n v s = .next (s.respond .okWrite).rejectWrite := by
  rw [hostWrite, target_txBuf s.param addr n o h hb ha]
  exact if_pos hbusy

/-- An address inside TXBUF, as an offset of the same alignment: every width divides the base. -/
theorem exists_txBuf_offset {addr : Addr} {n : Width} {m : Nat}
    (h : 0x20000 ≤ addr.toNat ∧ addr.toNat + n.bytes ≤ 0x20000 + m ∧ addr.toNat % n.bytes = 0) :
    ∃ o, addr.toNat = txBase + o ∧ o + n.bytes ≤ m ∧ o % n.bytes = 0 := by
  refine ⟨addr.toNat - 0x20000, ?_, by omega, ?_⟩
  · rw [txBase]
    omega
  · cases n <;> simp only [Width.bytes] at h ⊢ <;> omega

theorem State.writeCtrl_busy (v : Word) {s : State} (h : s.busy = true) : (s.writeCtrl v).busy = !v.getLsbD 0 := by
  rw [State.busy, State.writeCtrl_eng]
  cases v.getLsbD 0
  · exact h
  · rfl

theorem State.writeCtrl_wrej (v : Word) (s : State) :
    (s.writeCtrl v).status.wrej = (!v.getLsbD 0 && !v.getLsbD 1 && s.status.wrej) := by
  rw [State.writeCtrl_status]
  cases v.getLsbD 0 <;> cases v.getLsbD 1 <;> rfl

/-- Settles O44, from the access classes of the registers and the target of a TXBUF address. -/
theorem busyWritesAreRefused : Obligations.BusyWritesAreRefused := by
  intro s addr n v hb t
  refine ⟨?_, ?_, fun h40 h4 hro => ?_⟩
  · rintro (⟨rfl, rfl | rfl | rfl⟩ | h)
    · rw [runTurn_write_reg .cmd rfl]
      exact writeReg_busy (.inl rfl) v hb
    · rw [runTurn_write_reg .value rfl]
      exact writeReg_busy (.inr rfl) v hb
    · rw [runTurn_write_reg .txCorrId rfl]
      exact writeReg_busy (.inr rfl) v hb
    · obtain ⟨o, ha, ho, hm⟩ := exists_txBuf_offset h
      exact hostWrite_txBuf_busy v ha ho hm hb
  · rw [runTurn_write_reg .ctrl rfl, writeReg_ctrl]
    exact ⟨_, rfl, State.writeCtrl_env v _, State.writeCtrl_ie v _, State.writeCtrl_busy v hb, State.writeCtrl_wrej v _⟩
  · obtain ⟨r, hr⟩ := Reg.exists_offset h40 h4
    rw [runTurn_write_reg r hr.symm]
    exact writeReg_ro (Reg.access_eq_ro (hr ▸ hro)) v _

end Sys2Proof.Machine
end

section
/-! PROOF. Who writes the buffers (20_memory.md R73, R80, R82): RXBUF the ENGINE of a running DECODE, TXBUF the host while
no command runs. -/
namespace Sys2Proof.Machine

/-- No command stores outside TXBUF. -/
theorem CommandEffect.byteAt {s t : State} {i : Instr} (h : CommandEffect s i t) {a : Nat}
    (ha : ¬ (txBase ≤ a ∧ a < txBase + s.param.txBytes)) : t.byteAt a = s.byteAt a := by
  cases h with
  | appends _ _ L hr =>
    exact State.appended_others L (s.beginIssue i.opc) (by simp only [State.beginIssue_tx]; omega)
  | _ => rfl

theorem issue_byteAt {w : Word} {s t : State} (h : issue w s = .next t) {a : Nat}
    (ha : ¬ (txBase ≤ a ∧ a < txBase + s.param.txBytes)) : t.byteAt a = s.byteAt a := by
  rcases issue_effect h with ⟨_, _, he⟩ | ⟨_, rfl⟩
  · exact he.byteAt ha
  · rfl

/-- A host write changes bytes of TXBUF only, and only while BUSY = 0. -/
theorem WriteEffect.byteAt {addr : Addr} {n : Width} {v : Word} {s t : State} (h : WriteEffect addr n v s t) {a : Nat}
    (hne : t.byteAt a ≠ s.byteAt a) : s.busy = false ∧ txBase ≤ a ∧ a < txBase + s.param.txBytes := by
  cases h with
  | ctrl _ _ => exact absurd (State.byteAt_of_mem (State.writeCtrl_mem v _) a) hne
  | issues hb _ _ _ hi =>
    refine ⟨hb, ?_⟩
    by_contra ha
    exact hne (issue_byteAt hi ha)
  | txBuf hb o ho =>
    refine ⟨hb, ?_⟩
    by_contra ha
    refine hne (State.byteAt_setTxBytes_other (s.respond .okWrite) _ ?_)
    rw [beBytes_length]
    omega
  | _ => exact absurd rfl hne

/-- A DECODE step changes bytes of RXBUF only. -/
theorem decodeStep_byteAt {e : RxEvent} {s t : State} (h : decodeStep e s = .next t) {a : Nat}
    (ha : ¬ (rxBase ≤ a ∧ a < rxBase + s.param.rxBytes)) : t.byteAt a = s.byteAt a := by
  cases e with
  | eos | err => cases h; rfl
  | byte b =>
    have htook : (s.took b).byteAt a = s.byteAt a := State.byteAt_of_mem (s.took_mem b) a
    obtain ⟨_, ⟨_, _, rfl⟩ | ⟨_, rfl⟩⟩ | ⟨_, _, rfl⟩ | ⟨_, _, rfl⟩ := decodeByte_cases h
    · exact htook
    · exact htook
    · split_ifs <;> exact htook
    · have hbody : (s.tookBody b).byteAt a = s.byteAt a :=
        ((s.took b).byteAt_setRxByte_other b (by omega)).trans htook
      split_ifs <;> exact hbody

theorem encodeStep_byteAt {x : TxAnswer} {s t : State} (h : encodeStep x s = .next t) (a : Nat) :
    t.byteAt a = s.byteAt a := by
  rcases encodeStep_cases h with ⟨_, rfl⟩ | ⟨_, rfl⟩
  · rfl
  · split_ifs <;> rfl

/-- The ENGINE's turn changes bytes of RXBUF only, and only while a DECODE runs. -/
theorem engineTurn_byteAt {s t : State} (h : engineTurn s = .next t) {a : Nat} (hne : t.byteAt a ≠ s.byteAt a) :
    s.eng.eop = .dec ∧ rxBase ≤ a ∧ a < rxBase + s.param.rxBytes := by
  rcases engineTurn_cases h with ⟨rfl, _⟩ | ⟨hdec, _, _, _, hd⟩ | ⟨_, _, _, he⟩
  · exact absurd rfl hne
  · refine ⟨hdec, ?_⟩
    by_contra ha
    exact hne (decodeStep_byteAt hd ha)
  · exact absurd (encodeStep_byteAt he a) hne

/-- Everything a turn can do to a byte of the buffers. -/
theorem TurnEffect.byteAt {u : Turn} {s t : State} (h : TurnEffect s u t) {a : Nat} (hne : t.byteAt a ≠ s.byteAt a) :
    (u = .engine ∧ s.eng.eop = .dec ∧ rxBase ≤ a ∧ a < rxBase + s.param.rxBytes) ∨
    (s.busy = false ∧ (∃ addr n v, u = .host (.write addr n v)) ∧ txBase ≤ a ∧ a < txBase + s.param.txBytes) := by
  cases h with
  | writes addr n v _ hw =>
    obtain ⟨hb, ha⟩ := hw.byteAt hne
    exact .inr ⟨hb, ⟨addr, n, v, rfl⟩, ha⟩
  | engine _ he => exact .inl ⟨rfl, engineTurn_byteAt he hne⟩
  | rxsrc e => exact absurd (State.byteAt_of_mem (s.rxArrive_mem e) a) hne
  | attach => exact absurd (State.byteAt_of_mem s.attachStreams_mem a) hne
  | _ => exact absurd rfl hne

/-- Settles O57: of the turns, only the ENGINE's of a DECODE and the host's write store into a buffer. -/
theorem buffersWrittenOnlyByTheirWriters : Obligations.BuffersWrittenOnlyByTheirWriters := by
  intro s t a h hne
  obtain ⟨_, _, _, ht⟩ := step_effect h
  exact ht.byteAt hne

end Sys2Proof.Machine
end

section
/-! PROOF. The encoding (30_encoding.md R110 to R115): each row of the opcode map selects exactly the words it encodes, so
decoder and encoder undo each other. -/
namespace Sys2Proof

/-! ### The rows of the opcode map -/

/-- The upper half that every word of the row has. -/
def Row.head (r : Row) : Half := r.pattern.extractLsb' 16 16

/-- An IMM field the row takes: its bits are clear where the row's mask fixes them (R113). -/
def Row.admits (r : Row) (imm : Half) : Prop := imm &&& r.mask.extractLsb' 0 16 = 0

theorem Row.selects_iff_head {r : Row} (hr : r ∈ opcodeMap) (w : Word) :
    r.selects w = true ↔ w.extractLsb' 16 16 = r.head ∧ r.admits (immOf w) := r.selects_iff hr w

/-- The row's commands have the words the row selects, and are well-formed. -/
def Row.Encodes (r : Row) : Prop :=
  ∀ imm, r.admits imm → encode (r.build imm) = r.head ++ imm ∧ (r.build imm).wellFormed = true

/-- A row without an operand (formats Z and ZN, R111) has one word, its pattern. -/
theorem Row.encodes_of_fixed {r : Row} (hm : r.mask.extractLsb' 0 16 = BitVec.allOnes 16)
    (h0 : encode (r.build 0) = r.head ++ (0 : Half) ∧ (r.build 0).wellFormed = true) : r.Encodes := by
  intro imm h
  obtain rfl : imm = 0 := by rwa [Row.admits, hm, BitVec.and_allOnes] at h
  exact h0

/-- A row with an operand (formats O, I and I8, R111) has it in the word's IMM field. -/
theorem Row.encodes_of_operand {r : Row} {opc : Byte} {s n : Bool} (hp : r.pattern = commandWord opc s n 0)
    (he : ∀ imm, encode (r.build imm) = commandWord opc s n imm)
    (hw : ∀ imm, r.admits imm → (r.build imm).wellFormed = true) : r.Encodes := by
  intro imm h
  refine ⟨?_, hw imm h⟩
  rw [he, Row.head, hp, commandWord_halves, commandWord_halves, append_upper]

/-- The bits format I8's mask fixes are the upper byte of IMM (R111, R112). -/
theorem fitsImm8_iff (imm : Half) : fitsImm8 imm = true ↔ imm &&& 0xFF00 = 0 := by
  have hupper : imm &&& 0xFF00 = imm.extractLsb' 8 8 ++ 0#8 := by
    apply BitVec.eq_of_getLsbD_eq
    intro i hi
    rw [BitVec.getLsbD_append]
    interval_cases i <;> simp
  rw [fitsImm8, beq_iff_eq, hupper]
  constructor
  · intro h
    rw [h]
    rfl
  · intro h
    have hu := congrArg (BitVec.extractLsb' 8 8) h
    rwa [BitVec.extractLsb'_append_eq_left] at hu

theorem opcodeMap_encodes : ∀ r ∈ opcodeMap, r.Encodes := by
  simp only [opcodeMap, List.cons_append, List.nil_append, List.forall_mem_cons]
  exact ⟨
    Row.encodes_of_fixed (by decide) (by decide), -- DECODE
    Row.encodes_of_fixed (by decide) (by decide), -- ENCODE
    Row.encodes_of_operand (by decide) (fun _ => rfl) fun _ _ => rfl, -- RXSEEK
    Row.encodes_of_operand (by decide) (fun _ => rfl) fun _ _ => rfl, -- TXSEEK
    Row.encodes_of_fixed (by decide) (by decide), -- PUT8
    Row.encodes_of_operand (by decide) (fun _ => rfl) fun imm h => (fitsImm8_iff imm).2 h, -- PUT8I
    Row.encodes_of_fixed (by decide) (by decide), -- PUT16
    Row.encodes_of_operand (by decide) (fun _ => rfl) fun _ _ => rfl, -- PUT16I
    Row.encodes_of_fixed (by decide) (by decide), -- PUT32
    Row.encodes_of_operand (by decide) (fun _ => rfl) fun _ _ => rfl, -- PUT32I
    Row.encodes_of_fixed (by decide) (by decide), -- PUTUV
    Row.encodes_of_operand (by decide) (fun _ => rfl) fun _ _ => rfl, -- PUTUVI
    Row.encodes_of_fixed (by decide) (by decide), -- PUTCA
    Row.encodes_of_operand (by decide) (fun _ => rfl) fun _ _ => rfl, -- PUTCAI
    Row.encodes_of_fixed (by decide) (by decide), -- PUTCAN
    Row.encodes_of_fixed (by decide) (by decide), -- GET8
    Row.encodes_of_fixed (by decide) (by decide), -- GET16
    Row.encodes_of_fixed (by decide) (by decide), -- GET32
    Row.encodes_of_fixed (by decide) (by decide), -- GETUV
    Row.encodes_of_fixed (by decide) (by decide), -- GETCA
    by simp⟩

/-- A well-formed instruction is what some row builds of an IMM field it takes. -/
theorem Instr.exists_row (i : Instr) (hi : i.wellFormed = true) :
    ∃ r ∈ opcodeMap, ∃ imm, r.admits imm ∧ r.build imm = i := by
  have row (n : Fin 20) (imm : Half) (h : opcodeMap[n].admits imm) :
      ∃ r ∈ opcodeMap, ∃ x, r.admits x ∧ r.build x = opcodeMap[n].build imm :=
    ⟨_, List.getElem_mem _, imm, h, rfl⟩
  cases i with
  | decode => exact row 0 0 rfl
  | encode => exact row 1 0 rfl
  | rxseek off => exact row 2 off BitVec.and_zero
  | txseek off => exact row 3 off BitVec.and_zero
  | put8 => exact row 4 0 rfl
  | put8i imm => exact row 5 imm ((fitsImm8_iff imm).1 hi)
  | put16 => exact row 6 0 rfl
  | put16i imm => exact row 7 imm BitVec.and_zero
  | put32 => exact row 8 0 rfl
  | put32i imm => exact row 9 imm BitVec.and_zero
  | putuv => exact row 10 0 rfl
  | putuvi imm => exact row 11 imm BitVec.and_zero
  | putca => exact row 12 0 rfl
  | putcai imm => exact row 13 imm BitVec.and_zero
  | putcan => exact row 14 0 rfl
  | get8 => exact row 15 0 rfl
  | get16 => exact row 16 0 rfl
  | get32 => exact row 17 0 rfl
  | getuv => exact row 18 0 rfl
  | getca => exact row 19 0 rfl

/-! ### The decoder -/

/-- The rows are disjoint (R113): their upper halves differ. -/
theorem Row.eq_of_selects {r r' : Row} (hr : r ∈ opcodeMap) (hr' : r' ∈ opcodeMap) {w : Word}
    (h : r.selects w = true) (h' : r'.selects w = true) : r = r' :=
  List.inj_on_of_nodup_map opcodeMap_heads_distinct hr hr'
    (((Row.selects_iff_head hr w).1 h).1.symm.trans ((Row.selects_iff_head hr' w).1 h').1)

theorem decode_of_selects {r : Row} (hr : r ∈ opcodeMap) {w : Word} (h : r.selects w = true) :
    decode w = .ok (r.build (immOf w)) := by
  obtain ⟨r', hf⟩ : ∃ r', opcodeMap.find? (Row.selects · w) = some r' :=
    Option.isSome_iff_exists.1 (List.find?_isSome.2 ⟨r, hr, h⟩)
  have hs : r'.selects w = true := List.find?_some (p := (Row.selects · w)) hf
  obtain rfl : r' = r := Row.eq_of_selects (List.mem_of_find?_eq_some hf) hr hs h
  simp only [decode, hf]

theorem decode_of_no_row {w : Word} (h : ∀ r ∈ opcodeMap, ¬ r.selects w = true) : ∃ e, decode w = .error e := by
  have hf : opcodeMap.find? (fun r => r.selects w) = none := List.find?_eq_none.2 h
  simp only [decode, hf]
  exact ⟨_, rfl⟩

/-- What a decoded word says: the row that selects it, and the row's command with its IMM. -/
theorem decode_eq_ok_iff {w : Word} {i : Instr} :
    decode w = .ok i ↔ ∃ r ∈ opcodeMap, r.selects w = true ∧ r.build (immOf w) = i := by
  constructor
  · intro h
    by_cases hex : ∃ r ∈ opcodeMap, r.selects w = true
    · obtain ⟨r, hr, hs⟩ := hex
      rw [decode_of_selects hr hs] at h
      exact ⟨r, hr, hs, Except.ok.inj h⟩
    · obtain ⟨e, he⟩ := decode_of_no_row fun r hr hs => hex ⟨r, hr, hs⟩
      rw [he] at h
      cases h
  · rintro ⟨r, hr, hs, rfl⟩
    exact decode_of_selects hr hs

/-- Settles O1: an instruction's word is its row's upper half and an IMM field the row takes, so that row selects it. -/
theorem decodeOfEncode : Obligations.DecodeOfEncode := by
  intro i hi
  obtain ⟨r, hr, imm, ha, rfl⟩ := i.exists_row hi
  have hs : r.selects (r.head ++ imm) = true := (r.selects_append hr r.head imm).2 ⟨rfl, ha⟩
  rw [(opcodeMap_encodes r hr imm ha).1, decode_of_selects hr hs, immOf, append_lower]

/-- Settles O2: the row that selects the word fixes its upper half, and takes the lower half as IMM. -/
theorem encodeOfDecode : Obligations.EncodeOfDecode := by
  intro w i h
  obtain ⟨r, hr, hs, rfl⟩ := decode_eq_ok_iff.1 h
  obtain ⟨hh, ha⟩ := (Row.selects_iff_head hr w).1 hs
  obtain ⟨he, hw⟩ := opcodeMap_encodes r hr _ ha
  exact ⟨by rw [he, ← hh, immOf, word_halves], hw⟩

/-- At most one row selects a word: the selecting rows share its upper half, and the rows' upper halves are distinct. -/
theorem selecting_rows_le_one (w : Word) : (opcodeMap.filter fun r => r.selects w).length ≤ 1 := by
  have hall : ∀ h ∈ (opcodeMap.filter fun r => r.selects w).map Row.head, h = w.extractLsb' 16 16 := by
    intro h hm
    obtain ⟨r, hf, rfl⟩ := List.mem_map.1 hm
    obtain ⟨hr, hs⟩ := List.mem_filter.1 hf
    exact ((Row.selects_iff_head hr w).1 hs).1.symm
  have hnodup : ((opcodeMap.filter fun r => r.selects w).map Row.head).Nodup :=
    opcodeMap_heads_distinct.sublist (List.filter_sublist.map _)
  rwa [List.eq_replicate_of_mem hall, List.nodup_replicate, List.length_map] at hnodup

/-- The opcodes no row has (R114). -/
def ReservedOpcode (o : Nat) : Prop :=
  o = 0 ∨ (3 ≤ o ∧ o ≤ 7) ∨ (0x0A ≤ o ∧ o ≤ 0x0F) ∨ (0x15 ≤ o ∧ o ≤ 0x1F) ∨ 0x25 ≤ o

theorem opcodeMap_not_reserved : ∀ r ∈ opcodeMap, ¬ ReservedOpcode (r.pattern >>> 24).toNat := by
  unfold ReservedOpcode
  decide

/-- The opcode lies in the upper half, so a word has the opcode of the row that selects it. -/
theorem Row.opcode_of_selects {r : Row} (hr : r ∈ opcodeMap) {w : Word} (h : r.selects w = true) :
    w >>> 24 = r.pattern >>> 24 := by
  have upper (v : Word) : v >>> 24 = (v.extractLsb' 16 16 >>> 8).setWidth 32 := by
    apply BitVec.eq_of_toNat_eq
    simp only [BitVec.toNat_ushiftRight, BitVec.toNat_setWidth, BitVec.extractLsb'_toNat]
    omega
  rw [upper w, upper r.pattern, ((Row.selects_iff_head hr w).1 h).1, Row.head]

/-- Settles O4: selection by a row, said of its halves, decides what the decoder answers. -/
theorem decoderFindsTheRow : Obligations.DecoderFindsTheRow := by
  intro w
  refine ⟨selecting_rows_le_one w, ?_, ?_, ?_⟩
  · exact fun r hr h => decode_of_selects hr ((r.selects_def w).2 h)
  · exact fun h => decode_of_no_row fun r hr hs => h r hr ((r.selects_def w).1 hs)
  · rintro o rfl hres r hr h
    rw [Row.opcode_of_selects hr ((r.selects_def w).2 h)] at hres
    exact opcodeMap_not_reserved r hr hres

/-- Settles O3. -/
theorem workedEncodings : Obligations.WorkedEncodings := by
  unfold Obligations.WorkedEncodings
  decide

end Sys2Proof
end

section
/-! PROOF. The unsigned varint of a value is its shortest form (30_encoding.md R104, R105). -/
namespace Sys2Proof.Machine

/-- `UvForm u L`: `L` is the shortest varint of `u`, least significant group first (R104). -/
inductive UvForm : Nat → List Byte → Prop
  | last {u : Nat} (h : u < 128) : UvForm u [BitVec.ofNat 8 u]
  | more {u : Nat} {L : List Byte} (h : 128 ≤ u) (rest : UvForm (u / 128) L) :
      UvForm u (BitVec.ofNat 8 (u % 128 + 128) :: L)

theorem uvGroups_form {fuel u : Nat} (h : u < 128 ^ (fuel + 1)) : UvForm u (uvGroups (fuel + 1) u) := by
  induction fuel generalizing u with
  | zero =>
    rw [uvGroups_last 0 u h]
    exact .last h
  | succ fuel ih =>
    rcases Nat.lt_or_ge u 128 with hu | hu
    · rw [uvGroups_last _ u hu]
      exact .last hu
    · rw [uvGroups_more _ u hu]
      exact .more hu (ih (Nat.div_lt_of_lt_mul (by rwa [← pow_succ'])))

theorem lastGroup_toNat {u : Nat} (h : u < 128) : (BitVec.ofNat 8 u).toNat = u :=
  Nat.mod_eq_of_lt (by omega)

theorem moreGroup_toNat (u : Nat) : (BitVec.ofNat 8 (u % 128 + 128)).toNat = u % 128 + 128 :=
  Nat.mod_eq_of_lt (by omega)

/-- Five groups hold every 32-bit value. -/
theorem uvBytes_form (u : Word) : UvForm u.toNat (uvBytes u) := uvGroups_form (by omega)

/-- One byte for every 7 bits of the value, and one at least (R105). -/
theorem UvForm.length {u : Nat} {L : List Byte} (h : UvForm u L) : L.length = Nat.log 128 u + 1 := by
  induction h with
  | last h => rw [Nat.log_of_lt h]; rfl
  | more h _ ih => rw [List.length_cons, ih, ← Nat.log_of_one_lt_of_le (by omega) h]

/-- Every byte but the last has its continuation bit (R104). -/
theorem UvForm.more_of_lt {u : Nat} {L : List Byte} (h : UvForm u L) {j : Nat} (hj : j + 1 < L.length) :
    128 ≤ (L.getD j 0).toNat := by
  induction h generalizing j with
  | last h => simp at hj
  | @more u L h _ ih =>
    cases j with
    | zero =>
      rw [List.getD_cons_zero, moreGroup_toNat]
      omega
    | succ j => exact ih (by simpa using hj)

/-- The last byte has no continuation bit (R104). -/
theorem UvForm.last_lt {u : Nat} {L : List Byte} (h : UvForm u L) : (L.getD (L.length - 1) 0).toNat < 128 := by
  induction h with
  | last h => exact (lastGroup_toNat h).trans_lt h
  | @more u L h rest ih =>
    have hpos : L.length = L.length - 1 + 1 := by rw [rest.length]; rfl
    rw [List.length_cons, Nat.add_sub_cancel, hpos]
    exact ih

theorem varintValue_cons (b : Byte) (L : List Byte) (n : Nat) :
    varintValue (fun j => (b :: L).getD j 0) 0 (n + 1) = b.toNat % 128 + 128 * varintValue (fun j => L.getD j 0) 0 n := by
  have shift (j : Nat) : (L.getD j 0).toNat % 128 * 2 ^ (7 * (j + 1)) =
      128 * ((L.getD j 0).toNat % 128 * 2 ^ (7 * j)) := by ring
  simp only [varintValue, List.range_succ_eq_map, List.map_cons, List.map_map, List.sum_cons, ← List.sum_map_mul_left,
    Function.comp_def, Nat.zero_add, List.getD_cons_succ, List.getD_cons_zero, Nat.mul_zero, Nat.pow_zero,
    Nat.mul_one, Nat.succ_eq_add_one, shift]

/-- The 7-bit groups add up to the value (R104). -/
theorem UvForm.value {u : Nat} {L : List Byte} (h : UvForm u L) : varintValue (fun j => L.getD j 0) 0 L.length = u := by
  induction h with
  | @last u h =>
    have hb := lastGroup_toNat h
    simp [varintValue, hb, Nat.mod_eq_of_lt h]
  | @more u L h _ ih =>
    rw [List.length_cons, varintValue_cons, ih, moreGroup_toNat]
    omega

theorem log_succ_of_lt {u : Nat} (h : u < 128) : Nat.log 128 u + 1 = 1 := by rw [Nat.log_of_lt h]

theorem log_succ_of_range {u : Nat} (k : Nat) (lo : 128 ^ k ≤ u) (hi : u < 128 ^ (k + 1)) :
    Nat.log 128 u + 1 = k + 1 := by rw [Nat.log_eq_of_pow_le_of_lt_pow lo hi]

/-- The lengths of R105. -/
theorem log_uv_lengths {u : Nat} (h : u < 2 ^ 32) :
    Nat.log 128 u + 1 = if u ≤ 127 then 1 else if u ≤ 16383 then 2 else if u ≤ 2097151 then 3
      else if u ≤ 268435455 then 4 else 5 := by
  split_ifs
  · exact log_succ_of_lt (by omega)
  · exact log_succ_of_range 1 (by omega) (by omega)
  · exact log_succ_of_range 2 (by omega) (by omega)
  · exact log_succ_of_range 3 (by omega) (by omega)
  · exact log_succ_of_range 4 (by omega) (h.trans_le (by norm_num))

theorem varintValue_succ (read : Nat → Byte) (p n : Nat) :
    varintValue read p (n + 1) = varintValue read p n + (read (p + n)).toNat % 128 * 2 ^ (7 * n) := by
  simp only [varintValue, List.range_succ, List.map_append, List.sum_append, List.map_singleton, List.sum_singleton]

/-- A fifth byte has only the four bits left of 32. -/
theorem varint_fifth_le {read : Nat → Byte} {p : Nat} (hv : varintValue read p 5 < 2 ^ 32)
    (h : (read (p + 4)).toNat < 128) : (read (p + 4)).toNat ≤ 15 := by
  rw [varintValue_succ] at hv
  omega

/-- Settles O17: the groups of R104 give the form, the continuation bits and the value; the length is a logarithm. -/
theorem uvBytesShortestForm : Obligations.UvBytesShortestForm := by
  intro u
  have hf := uvBytes_form u
  have hu : u.toNat < 2 ^ 32 := u.isLt
  have hlen := hf.length.trans (log_uv_lengths hu)
  refine ⟨hlen, ⟨?_, ?_, ?_, ?_⟩, hf.value⟩
  · split_ifs at hlen <;> omega
  · intro j hj
    simpa only [Nat.zero_add] using hf.more_of_lt hj
  · simpa only [Nat.zero_add] using hf.last_lt
  · intro h5
    have hv := hf.value
    have hl := hf.last_lt
    rw [h5] at hv hl
    exact varint_fifth_le (hv ▸ hu) hl

end Sys2Proof.Machine
end

section
/-! PROOF. The pseudo-commands (30_encoding.md R118). -/
namespace Sys2Proof.Machine

/-- The assembler's entry of PUTI16 (R118). -/
def puti16Entry : AsmEntry := ⟨"PUTI16".toList, some (-32768, 32767), fun v => .put16i (BitVec.ofInt 16 v)⟩

theorem asmEntries_find_puti16 : (asmEntries.find? fun e => e.mnemonic == "PUTI16".toList) = some puti16Entry := rfl

theorem ofInt_half_emod (v : Int) : BitVec.ofInt 16 (v % 65536) = BitVec.ofInt 16 v := by
  apply BitVec.eq_of_toInt_eq
  rw [BitVec.toInt_ofInt, BitVec.toInt_ofInt]
  exact Int.emod_bmod v 65536

theorem ofInt_half_setWidth (v : Int) : (BitVec.ofInt 16 v).setWidth 32 = BitVec.ofInt 32 (v % 65536) := by
  apply BitVec.eq_of_toNat_eq
  simp only [BitVec.toNat_setWidth, BitVec.toNat_ofInt, Nat.reducePow, Nat.cast_ofNat]
  omega

/-- The build of PUTI16 takes its literal modulo 65536 (R118). -/
theorem puti16Entry_build (v : Int) : puti16Entry.build v = .put16i (BitVec.ofInt 16 (v % 65536)) :=
  congrArg Instr.put16i (ofInt_half_emod v).symm

theorem encode_put16i (imm : Half) : encode (.put16i imm) = 0x11800000 ||| imm.setWidth 32 := by
  have hw : encode (.put16i imm) = 0x1180#16 ++ imm := commandWord_halves 0x11 true false imm
  apply BitVec.eq_of_toNat_eq
  rw [hw, BitVec.toNat_append, BitVec.toNat_or, BitVec.toNat_setWidth_of_le (by omega)]
  rfl

/-- A line of PUTI16 with a literal assembles as PUTI16's entry with that operand. -/
theorem assemble_puti16 {cs : List Char} {v : Int} (h : literal cs = some v) :
    assemble ("PUTI16 ".toList ++ cs) = (assembleEntry puti16Entry [cs]).map some :=
  assemble_literal (name := "PUTI16".toList) (by decide) (by simp [WordChar]) asmEntries_find_puti16 h

/-- Settles O60: the lines without an operand are closed, and PUTI16's entry is read through its range and its build. -/
theorem pseudoCommandWords : Obligations.PseudoCommandWords := by
  have hfind := asmEntries_find_puti16
  refine ⟨?_, ⟨puti16Entry, hfind, List.mem_of_find?_eq_some hfind, rfl, rfl, ?_, ?_⟩, by decide⟩
  · simp only [List.forall_mem_cons]
    exact ⟨⟨.txseek 0, by decide⟩, ⟨.rxseek 0, by decide⟩, ⟨.putuvi 0, by decide⟩, ⟨.putcai 0, by decide⟩, by simp⟩
  · intro v _ _
    refine ⟨puti16Entry_build v, ?_⟩
    rw [puti16Entry_build, ofInt_half_emod, encode_put16i, ofInt_half_setWidth]
  · intro cs v hl
    rw [assemble_puti16 hl, assembleEntry_literal (e := puti16Entry) rfl hl, puti16Entry_build]
    constructor
    · intro h
      rw [if_pos h]
      exact ⟨rfl, rfl⟩
    · intro h
      rw [if_neg h]
      exact ⟨rfl, rfl⟩

end Sys2Proof.Machine
end

section
/-! PROOF. Command issue (40_issue.md R130 to R136): which word the host's write to CMD runs, how an illegal word ends, and
what no command writes. -/
namespace Sys2Proof.Machine

/-! ### What no command writes -/

/-- The flags outside the result: no issue writes CTRL.IE or closes or opens a channel. -/
theorem CommandEffect.ie_channels {s t : State} {i : Instr} (h : CommandEffect s i t) :
    t.ie = s.ie ∧ t.status.rxClosed = s.status.rxClosed ∧ t.status.txClosed = s.status.txClosed := by
  cases h <;> exact ⟨rfl, rfl, rfl⟩

/-- The frame header is left alone: a DECODE's issue clears only RX_COUNT, RX_BODY_LEN and RX_POS, and the ENGINE unpacks
the header later. -/
theorem CommandEffect.header {s t : State} {i : Instr} (h : CommandEffect s i t) :
    t.rx.size = s.rx.size ∧ t.rx.apiKey = s.rx.apiKey ∧ t.rx.apiVersion = s.rx.apiVersion ∧ t.rx.corrId = s.rx.corrId ∧
      t.tx.corrId = s.tx.corrId ∧ t.eng.acc = s.eng.acc := by
  cases h <;> exact ⟨rfl, rfl, rfl, rfl, rfl, rfl⟩

/-- Only ENCODE latches its operands (R161). -/
theorem CommandEffect.latches {s t : State} {i : Instr} (h : CommandEffect s i t) (hi : i ≠ .encode) :
    t.eng.elen = s.eng.elen ∧ t.eng.ecid = s.eng.ecid ∧ t.eng.emsz = s.eng.emsz := by
  cases h with
  | startsEncode => exact absurd rfl hi
  | _ => exact ⟨rfl, rfl, rfl⟩

theorem CommandEffect.lastOpc {s t : State} {i : Instr} (h : CommandEffect s i t) : t.status.lastOpc = i.opc := by
  cases h <;> rfl

/-- A started DECODE or ENCODE leaves BUSY, a rejection ERR, every other end DONE (R133 to R135). -/
theorem CommandEffect.result {s t : State} {i : Instr} (h : CommandEffect s i t) :
    (t.busy = true ∧ t.status.done = false ∧ t.status.err = false) ∨
      (t.busy = false ∧ t.status.done = true ∧ t.status.err = false) ∨
      (t.busy = false ∧ t.status.done = false ∧ t.status.err = true) := by
  cases h with
  | rejects => exact .inr (.inr ⟨rfl, rfl, rfl⟩)
  | startsDecode | startsEncode => exact .inl ⟨rfl, rfl, rfl⟩
  | seeksRx | seeksTx | appends | reads => exact .inr (.inl ⟨rfl, rfl, rfl⟩)

/-- Settles O8: each clause is a lemma over the effects a command can have. -/
theorem everyCommandFrame : Obligations.EveryCommandFrame := by
  intro i s t h
  have he := exec_effect h
  obtain ⟨hparam, hwrej, henv⟩ := he.frame
  obtain ⟨hie, hrx, htx⟩ := he.ie_channels
  obtain ⟨hsize, hkey, hversion, hcorr, htxCorr, hacc⟩ := he.header
  exact ⟨hparam, hie, henv, hwrej, hrx, htx, he.lastOpc, hsize, hkey, hversion, hcorr, htxCorr, hacc, he.latches, he.vnull,
    he.result⟩

/-! ### What a write to CMD runs -/

theorem issue_of_ok {w : Word} {i : Instr} (h : decode w = .ok i) (s : State) : issue w s = exec i s := by
  rw [issue, h]

theorem issue_of_error {w : Word} {e : Illegal} (h : decode w = .error e) (s : State) :
    issue w s = .next (rejected (opcOf w) .illegalCmd s) := by
  rw [issue, h, State.raise_beginIssue]

theorem writeReg_cmd (w : Word) {s : State} (hb : s.busy = false) : writeReg .cmd w s = issue w s := by
  simp [writeReg, Reg.access, hb]

/-- A step whose turn is the host's write to CMD is that register's write, on the state with the turn taken off. -/
theorem step_cmdWrite {s : State} {w : Word} {rest : List Turn} (h : s.env.agenda = .host (cmdWrite w) :: rest) :
    step s = writeReg .cmd w { s with env := { s.env with agenda := rest, hostResp := some .okWrite } } := by
  rw [(stepTakesTheNextTurn s).1 _ _ h, cmdWrite, runTurn_write_reg .cmd rfl, State.respond]

/-- Settles O6: the step is the write to CMD, which BUSY refuses or which issues the word. -/
theorem stepIssuesTheCommand : Obligations.StepIssuesTheCommand := by
  intro s w rest h t
  have hstep : step s = writeReg .cmd w t := step_cmdWrite h
  have hbusy : t.busy = s.busy := rfl
  rw [hstep, ← hbusy]
  refine ⟨fun hb i hd => ?_, fun hb e hd => ?_, writeReg_busy (.inl rfl) w⟩
  · rw [writeReg_cmd w hb, issue_of_ok hd]
  · rw [writeReg_cmd w hb, issue_of_error hd]

/-! ### Illegal words -/

/-- The OPC field is the word's upper byte (R110). -/
theorem opcOf_eq_ushiftRight (w : Word) : opcOf w = (w >>> 24).setWidth 8 := by
  apply BitVec.eq_of_toNat_eq
  simp [opcOf]

/-- A word that matches no row ends with ILLEGAL_CMD (R114, R136). -/
theorem issue_of_no_row {w : Word} (h : ∀ r ∈ opcodeMap, w &&& r.mask ≠ r.pattern) (s : State) :
    issue w s = .next (rejected ((w >>> 24).setWidth 8) .illegalCmd s) := by
  obtain ⟨e, he⟩ := decode_of_no_row fun r hr hs => h r hr ((r.selects_def w).1 hs)
  rw [issue_of_error he, opcOf_eq_ushiftRight]

/-- Settles O7: the two words of the statement match no row. -/
theorem illegalWordEnds : Obligations.IllegalWordEnds :=
  ⟨fun _ s h => issue_of_no_row h s, fun s => issue_of_no_row (by decide) s, by decide, issue_of_no_row (by decide) _⟩

end Sys2Proof.Machine
end

section
/-! PROOF. The frame commands one step at a time (41_frame.md R150 to R163): the issue of DECODE and ENCODE, what the
commands that store nothing leave alone, and each ENGINE step. -/
namespace Sys2Proof.Machine

/-! ### Issue -/

theorem exec_decode_open {s : State} (h : s.status.rxClosed = false) :
    exec .decode s = .next (s.beginIssue 0x01).startDecode := by
  simp [exec, execDecode, h, Instr.opc]

theorem exec_decode_closed {s : State} (h : s.status.rxClosed = true) :
    exec .decode s = .next (rejected 0x01 .rxClosedErr s) := by
  simp [exec, execDecode, h, State.raise_beginIssue, Instr.opc]

theorem exec_encode_open {s : State} (h : s.status.txClosed = false) :
    exec .encode s = .next (s.beginIssue 0x02).startEncode := by
  simp [exec, execEncode, h, Instr.opc]

theorem exec_encode_closed {s : State} (h : s.status.txClosed = true) :
    exec .encode s = .next (rejected 0x02 .txClosedErr s) := by
  simp [exec, execEncode, h, State.raise_beginIssue, Instr.opc]

/-- Settles O26: the channel check decides between the two ends. -/
theorem decodeIssue : Obligations.DecodeIssue := fun _ => ⟨exec_decode_open, exec_decode_closed⟩

/-- EMSZ of a latched TX_LEN does not overflow (R160). -/
theorem Len.toNat_four_add (n : Len) : (4#32 + n.setWidth 32).toNat = 4 + n.toNat := by
  rw [BitVec.toNat_add, BitVec.toNat_setWidth_of_le (by decide), BitVec.toNat_ofNat]
  omega

/-- Settles O35: the channel check decides between the two ends, and EMSZ stays far below its sign bit. -/
theorem encodeIssue : Obligations.EncodeIssue := by
  refine fun s => ⟨fun h => ?_, exec_encode_closed⟩
  have hemsz := Len.toNat_four_add s.tx.len
  have hint : (4#32 + s.tx.len.setWidth 32).toInt = (4 + s.tx.len.toNat : Nat) := by
    rw [BitVec.toInt_eq_toNat_of_lt (by omega), hemsz]
  refine ⟨(s.beginIssue 0x02).startEncode, exec_encode_open h, rfl, hemsz, fun hlen => ?_⟩
  have := s.param.txBytes_le
  exact ⟨hemsz.trans_le (by omega), (show (4 : Int) ≤ (4 + s.tx.len.toNat : Nat) by omega).trans_eq hint.symm⟩

/-! ### What the commands that store nothing leave alone -/

/-- Only a PUT writes buffer bytes. -/
theorem CommandEffect.mem {s t : State} {i : Instr} (h : CommandEffect s i t) (hp : isPut i = false) : t.mem = s.mem := by
  cases h with
  | appends _ hput => simp [hp] at hput
  | _ => rfl

/-- Only a GET writes VALUE. -/
theorem CommandEffect.value {s t : State} {i : Instr} (h : CommandEffect s i t) (hg : isGet i = false) :
    t.value = s.value := by
  cases h with
  | reads _ hget => simp [hg] at hget
  | _ => rfl

/-- The issue of a DECODE alone writes RX_BODY_LEN and RX_COUNT. -/
theorem CommandEffect.bodyLen_count {s t : State} {i : Instr} (h : CommandEffect s i t) (hd : i ≠ .decode) :
    t.rx.bodyLen = s.rx.bodyLen ∧ t.rx.count = s.rx.count := by
  cases h with
  | startsDecode => exact absurd rfl hd
  | _ => exact ⟨rfl, rfl⟩

/-- The request registers are written by DECODE, RXSEEK and the GETs only. -/
theorem CommandEffect.rx {s t : State} {i : Instr} (h : CommandEffect s i t) (hd : i ≠ .decode) (hg : isGet i = false)
    (hs : ∀ off, i ≠ .rxseek off) : t.rx = s.rx := by
  cases h with
  | startsDecode => exact absurd rfl hd
  | seeksRx off => exact absurd rfl (hs off)
  | reads _ hget => simp [hg] at hget
  | _ => rfl

/-- TX_LEN is written by TXSEEK and the PUTs only. -/
theorem CommandEffect.txLen {s t : State} {i : Instr} (h : CommandEffect s i t) (hp : isPut i = false)
    (hs : ∀ off, i ≠ .txseek off) : t.tx.len = s.tx.len := by
  cases h with
  | seeksTx off => exact absurd rfl (hs off)
  | appends _ hput => simp [hp] at hput
  | _ => rfl

/-- The issue of an ENCODE alone writes TX_COUNT. -/
theorem CommandEffect.txCount {s t : State} {i : Instr} (h : CommandEffect s i t) (he : i ≠ .encode) :
    t.tx.count = s.tx.count := by
  cases h with
  | startsEncode => exact absurd rfl he
  | _ => rfl

/-- The response registers are written by ENCODE, TXSEEK and the PUTs only. -/
theorem CommandEffect.tx {s t : State} {i : Instr} (h : CommandEffect s i t) (he : i ≠ .encode) (hp : isPut i = false)
    (hs : ∀ off, i ≠ .txseek off) : t.tx = s.tx := by
  cases h with
  | startsEncode => exact absurd rfl he
  | seeksTx off => exact absurd rfl (hs off)
  | appends _ hput => simp [hp] at hput
  | _ => rfl

/-- Settles O9: each clause is what the effects of that command can write. -/
theorem nonStoringFrame : Obligations.NonStoringFrame := by
  intro s t off
  refine ⟨fun h => ?_, fun h => ?_, fun h => ?_, fun h => ?_, fun i hi h => ?_⟩ <;> have he := exec_effect h
  · exact ⟨State.byteAt_of_mem (he.mem rfl), he.value rfl, he.tx (by simp) rfl (by simp)⟩
  · exact ⟨State.byteAt_of_mem (he.mem rfl), he.value rfl, he.rx (by simp) rfl (by simp), he.txLen rfl (by simp)⟩
  · exact ⟨State.byteAt_of_mem (he.mem rfl), he.value rfl, he.tx (by simp) rfl (by simp), he.bodyLen_count (by simp)⟩
  · exact ⟨State.byteAt_of_mem (he.mem rfl), he.value rfl, he.rx (by simp) rfl (by simp), he.txCount (by simp)⟩
  · have hget : isPut i = false ∧ i ≠ .decode ∧ i ≠ .encode ∧ ∀ off, i ≠ .txseek off := by
      simp only [List.mem_cons, List.not_mem_nil, or_false] at hi
      rcases hi with rfl | rfl | rfl | rfl | rfl <;> exact ⟨rfl, by simp, by simp, by simp⟩
    obtain ⟨hput, hdec, henc, hseek⟩ := hget
    exact ⟨State.byteAt_of_mem (he.mem hput), he.tx henc hput hseek, he.bodyLen_count hdec⟩

/-! ### ENGINE steps -/

/-- Settles O27: an idle block, or a held command, has no step. -/
theorem heldCommandWaits : Obligations.HeldCommandWaits :=
  fun _ => ⟨engineTurn_idle, engineTurn_dec_held, engineTurn_enc_held⟩

/-- The first event offered has been consumed. -/
def State.consumed (rest : List RxEvent) (s : State) : State := { s with env := { s.env with rxPending := rest } }

theorem runTurn_engine_dec {s : State} {e : RxEvent} {rest : List RxEvent} (h : s.eng.eop = .dec)
    (hp : s.env.rxPending = e :: rest) : runTurn .engine s = decodeStep e (s.consumed rest) :=
  engineTurn_dec h hp

/-- Settles O28: the event decides the error, and for `Eos` whether a byte came before it. -/
theorem decodeEndsOnStreamEnd : Obligations.DecodeEndsOnStreamEnd := by
  intro s e rest hdec hp he
  rw [runTurn_engine_dec hdec hp]
  cases e with
  | byte b => cases he
  | err => rfl
  | eos =>
    have hz : s.rx.count.toNat = 0 ↔ s.rx.count = 0 := BitVec.toNat_inj (y := 0)
    simp only [hz]
    rfl

/-- What frame byte 3 changes: the count, ACC and RX_SIZE (R150). -/
theorem State.took_sizeField {b : Byte} {s : State} (h : s.rx.count = 3) :
    s.took b = { s with
      rx := { s.rx with count := 4, size := shiftIn s.eng.acc b }, eng := { s.eng with acc := shiftIn s.eng.acc b } } := by
  simp [State.took, State.storeField, State.countByte, h]

/-- Settles O29: the size the fourth byte completes is checked once it is stored. -/
theorem decodeValidatesSize : Obligations.DecodeValidatesSize := by
  intro s b rest hdec hp hk size t
  have ht : (s.consumed rest).took b = t := State.took_sizeField hk
  have hk3 : (s.consumed rest).rx.count.toNat = 3 := congrArg BitVec.toNat hk
  have hbad (e : ErrCode) (he : sizeError size s.param.rxBytes = some e) : runTurn .engine s = .next (t.failRx e) := by
    rw [runTurn_engine_dec hdec hp, decodeStep, decodeByte_bad hk3 (by rw [ht]; exact he), ht]
  refine ⟨fun h8 => hbad _ (sizeError_malformed h8), fun h8 hn => hbad _ (sizeError_tooLarge h8 hn), fun h8 hn => ?_⟩
  have hnone : sizeError size s.param.rxBytes = none := sizeError_eq_none.2 ⟨h8, hn⟩
  rw [runTurn_engine_dec hdec hp, decodeStep, decodeByte_size hk3 (by rw [ht]; exact hnone), ht]

/-- The step that consumes a header byte but byte 3 (R150, R154). -/
theorem runTurn_header {s : State} {b : Byte} {rest : List RxEvent} (hdec : s.eng.eop = .dec)
    (hp : s.env.rxPending = .byte b :: rest) (h3 : s.rx.count.toNat ≠ 3) (h12 : s.rx.count.toNat < 12) :
    runTurn .engine s = .next (if lastByte s.rx.count.toNat s.rx.size then ((s.consumed rest).took b).finishDecode
      else (s.consumed rest).took b) := by
  have hsize : ((s.consumed rest).took b).rx.size = s.rx.size := State.took_size (s := s.consumed rest) h3
  rw [runTurn_engine_dec hdec hp, decodeStep, decodeByte_header (s := s.consumed rest) h3 h12, hsize]
  rfl

/-- The step that consumes a body byte (R150, R152). -/
theorem runTurn_body {s : State} {b : Byte} {rest : List RxEvent} (hdec : s.eng.eop = .dec)
    (hp : s.env.rxPending = .byte b :: rest) (h12 : 12 ≤ s.rx.count.toNat) (hr : s.rx.count.toNat - 12 < s.param.rxBytes) :
    runTurn .engine s = .next (if lastByte s.rx.count.toNat s.rx.size then ((s.consumed rest).tookBody b).finishDecode
      else (s.consumed rest).tookBody b) := by
  have hsize : ((s.consumed rest).tookBody b).rx.size = s.rx.size :=
    State.took_size (s := s.consumed rest) (show s.rx.count.toNat ≠ 3 by omega)
  rw [runTurn_engine_dec hdec hp, decodeStep, decodeByte_body (s := s.consumed rest) h12 hr, hsize]
  rfl

/-- What a body byte changes: the count and the byte of RXBUF (R152). -/
theorem State.tookBody_eq {b : Byte} {s : State} (h : 12 ≤ s.rx.count.toNat) :
    s.tookBody b = { s with
      rx := { s.rx with count := s.rx.count + 1 }, mem := Memory.write s.mem (rxBase + (s.rx.count.toNat - 12)) b } := by
  rw [State.tookBody, State.took_body h, State.setRxByte]

theorem State.tookBody_byteAt_other {b : Byte} {s : State} {a : Nat} (h : a ≠ rxBase + (s.rx.count.toNat - 12)) :
    (s.tookBody b).byteAt a = s.byteAt a :=
  ((s.took b).byteAt_setRxByte_other b h).trans (State.byteAt_of_mem (s.took_mem b) a)

/-- Settles O30: with byte 3 and the last byte of an empty body set aside, a header byte only fills its field. -/
theorem decodeUnpacksHeader : Obligations.DecodeUnpacksHeader := by
  intro s b rest hdec hp h12 h3 h11 k field16 field32
  have hlast : ¬ lastByte s.rx.count.toNat s.rx.size = true := by
    rw [lastByte_eq_true]
    omega
  have htook := State.took_header (b := b) (s := s.consumed rest) h3 h12
  refine ⟨_, (runTurn_header hdec hp h3 h12).trans (by rw [if_neg hlast]), htook,
    State.took_count_toNat b (show s.rx.count.toNat < _ by omega), ?_⟩
  rw [htook]
  refine ⟨(State.busy_eq_true _).2 (by simp [State.consumed, hdec]), fun h => ?_, fun h => ?_, fun h => ?_⟩
  · exact congrArg (BitVec.signExtend 32) (if_pos h)
  · exact congrArg (BitVec.signExtend 32) (if_pos h)
  · exact if_pos h

/-- Settles O31: whether or not the byte is the last, the step stores it and counts it. -/
theorem decodeStoresBodyByte : Obligations.DecodeStoresBodyByte := by
  intro s b rest hdec hp h12 hr
  have hrun := runTurn_body hdec hp h12 hr
  have htook := State.tookBody_eq (b := b) (s := s.consumed rest) h12
  have hb : ((s.consumed rest).tookBody b).rxByte (s.rx.count.toNat - 12) = b := State.byteAt_setRxByte_same _ _ b
  have hothers (a : Nat) (ha : a ≠ rxBase + (s.rx.count.toNat - 12)) :
      ((s.consumed rest).tookBody b).byteAt a = s.byteAt a := State.tookBody_byteAt_other (s := s.consumed rest) ha
  have hcount : ((s.consumed rest).tookBody b).rx.count.toNat = s.rx.count.toNat + 1 :=
    State.took_count_toNat b (show s.rx.count.toNat < 12 + s.param.rxBytes by omega)
  by_cases hlast : lastByte s.rx.count.toNat s.rx.size = true
  · rw [if_pos hlast] at hrun
    refine ⟨_, hrun, hb, hothers, hcount, ?_⟩
    rw [htook]
    exact ⟨rfl, rfl, rfl, rfl, rfl, rfl, rfl, rfl, rfl, fun h => absurd (lastByte_eq_true.1 hlast).2 h⟩
  · rw [if_neg hlast] at hrun
    refine ⟨_, hrun, hb, hothers, hcount, ?_⟩
    rw [htook]
    exact ⟨rfl, rfl, rfl, rfl, rfl, rfl, rfl, rfl, rfl, fun _ => rfl⟩

/-- The body length of a size that passed the check is exact (R153, R155). -/
theorem bodyLen_toNat {size : Word} (h8 : 8 ≤ size.toInt) (hn : size.toInt - 8 ≤ 65536) :
    (((size - 8#32).setWidth 17).toNat : Int) = size.toInt - 8 := by
  have hsign : 2 * size.toNat < 2 ^ 32 := by
    rw [BitVec.toInt_eq_toNat_cond] at h8
    split_ifs at h8 <;> omega
  rw [BitVec.toInt_eq_toNat_of_lt hsign] at h8 hn ⊢
  have hsub : (size - 8#32).toNat = size.toNat - 8 := BitVec.toNat_sub_of_le (BitVec.le_def.2 (by simpa using h8))
  rw [BitVec.toNat_setWidth, hsub]
  omega

/-- Settles O32: the last byte is byte 11 of an empty body, or a body byte. -/
theorem decodeSucceedsOnLastByte : Obligations.DecodeSucceedsOnLastByte := by
  intro s b rest hdec hp h11 hsize hfit k field32
  have hlast : lastByte s.rx.count.toNat s.rx.size = true := lastByte_eq_true.2 ⟨h11, hsize⟩
  have hle := s.param.rxBytes_le
  have hbody : (((s.rx.size - 8#32).setWidth 17).toNat : Int) = s.rx.size.toInt - 8 :=
    bodyLen_toNat (by omega) (by omega)
  have hcount : ((s.rx.count + 1).toNat : Int) = 4 + s.rx.size.toInt := by
    rw [Len.toNat_add_one (n := 65548) _ (by omega) (by decide)]
    omega
  by_cases hk : s.rx.count.toNat = 11
  · have h3 : s.rx.count.toNat ≠ 3 := by omega
    have h12 : s.rx.count.toNat < 12 := by omega
    have hrun := runTurn_header hdec hp h3 h12
    rw [if_pos hlast, State.took_header (s := s.consumed rest) h3 h12] at hrun
    refine ⟨_, hrun, hbody, hcount, rfl, rfl, fun h => absurd h (by omega), fun _ _ => rfl, ?_⟩
    simp [State.finishDecode, State.completeOk, State.consumed, k, hk, field32]
  · have h12 : 12 ≤ s.rx.count.toNat := by omega
    have hrun := runTurn_body hdec hp h12 (by omega)
    rw [if_pos hlast] at hrun
    refine ⟨_, hrun, ?_, ?_, rfl, rfl, fun _ => State.byteAt_setRxByte_same _ _ b,
      fun a ha => State.tookBody_byteAt_other (s := s.consumed rest) fun h => ha ⟨h12, h⟩, ?_⟩ <;>
      rw [State.tookBody_eq (s := s.consumed rest) h12]
    · exact hbody
    · exact hcount
    · simp [State.finishDecode, State.completeOk, State.consumed, k, hk]

/-! ### ENCODE -/

/-- TXSINK's answer has been taken. -/
def State.answered (s : State) : State := { s with env := { s.env with txReady := none } }

theorem runTurn_engine_enc {s : State} {a : TxAnswer} (h : s.eng.eop = .enc) (hr : s.env.txReady = some a) :
    runTurn .engine s = encodeStep a s.answered :=
  engineTurn_enc h hr

/-- Settles O37: the step's byte is in the buffer, and `Err` drops it. -/
theorem encodeEndsOnWriteFailure : Obligations.EncodeEndsOnWriteFailure := by
  intro s henc hr hlt hlen
  have hroom : s.tx.count.toNat - 8 < s.param.txBytes ∨ s.tx.count.toNat < 8 := by omega
  rw [runTurn_engine_enc henc hr, encodeStep_err (s := s.answered) fun h8 => hroom.resolve_right (Nat.not_lt.2 h8)]
  rfl

/-- The step whose byte TXSINK accepts (R162). -/
theorem runTurn_sends {s : State} (henc : s.eng.eop = .enc) (hr : s.env.txReady = some .ok)
    (hlt : s.tx.count.toNat < 8 + s.eng.elen.toNat) (hlen : s.eng.elen.toNat ≤ s.param.txBytes) :
    runTurn .engine s = .next (if s.tx.count.toNat + 1 = 8 + s.eng.elen.toNat then
      (s.answered.sent (s.frameByte s.tx.count.toNat)).completeOk else s.answered.sent (s.frameByte s.tx.count.toNat)) := by
  have hroom : s.tx.count.toNat - 8 < s.param.txBytes ∨ s.tx.count.toNat < 8 := by omega
  rw [runTurn_engine_enc henc hr, encodeStep_ok (s := s.answered) fun h8 => hroom.resolve_right (Nat.not_lt.2 h8)]
  rfl

/-- Settles O36: the byte accepted is element TX_COUNT of the frame, and its count decides whether it is the last. -/
theorem encodeSendsNextByte : Obligations.EncodeSendsNextByte := by
  intro s henc hr hlt hlen
  have hcount : (s.tx.count + 1).toNat = s.tx.count.toNat + 1 :=
    Len.toNat_add_one _ hlt (by have := s.param.txBytes_le; omega)
  refine ⟨_, s.frameByte s.tx.count.toNat, runTurn_sends henc hr hlt hlen, s.frameByte_eq _ hlt, ?_, ?_⟩
  · split_ifs <;> exact hcount
  · by_cases hlast : s.tx.count.toNat + 1 = 8 + s.eng.elen.toNat
    · simp only [hlast, if_true]
      rfl
    · simp only [hlast, if_false, ← henc]
      rfl

end Sys2Proof.Machine
end

section
/-! PROOF. The DECODE of the bytes on offer, complete or cut short (41_frame.md R150 to R157), followed through a closed form
of the state after any number of bytes. -/
namespace Sys2Proof.Machine

/-! ### Runs -/

theorem coreRun_succ {M : Host.Core} {s t : M.State} (h : M.step s = .next t) (n : Nat) :
    M.run (n + 1) s = M.run n t := by
  rw [Host.Core.run, h]

theorem run_succ {s t : State} (h : step s = .next t) (n : Nat) : core.run (n + 1) s = core.run n t :=
  coreRun_succ (M := core) h n

/-! ### Big-endian fields in ACC -/

theorem shiftIn_toNat (acc : Word) (b : Byte) : (shiftIn acc b).toNat = (acc.toNat * 256 + b.toNat) % 2 ^ 32 := by
  simp [shiftIn]

/-- Four bytes push out what ACC held before them. -/
theorem foldl_shiftIn_be4 (acc v : Word) : (be4 v).foldl shiftIn acc = v := by
  apply BitVec.eq_of_toNat_eq
  simp only [be4, List.foldl, shiftIn_toNat, BitVec.extractLsb'_toNat, Nat.shiftRight_eq_div_pow]
  omega

theorem foldl_shiftIn_be2 (acc : Word) (v : Half) : ((be2 v).foldl shiftIn acc).extractLsb' 0 16 = v := by
  apply BitVec.eq_of_toNat_eq
  simp only [be2, List.foldl, shiftIn_toNat, BitVec.extractLsb'_toNat, Nat.shiftRight_eq_div_pow]
  omega

/-! ### A DECODE, byte after byte -/

/-- A register whose field ends with frame byte `n - 1`, once the bytes `L` have been consumed. -/
def fieldAfter {w : Nat} (n : Nat) (old : BitVec w) (f : List Byte → BitVec w) (L : List Byte) : BitVec w :=
  if n ≤ L.length then f (L.take n) else old

theorem fieldAfter_concat {w : Nat} (n : Nat) (old : BitVec w) (f : List Byte → BitVec w) (L : List Byte) (b : Byte) :
    fieldAfter (n + 1) old f (L ++ [b]) = if L.length = n then f (L ++ [b]) else fieldAfter (n + 1) old f L := by
  unfold fieldAfter
  rw [List.length_append, List.length_singleton]
  rcases Nat.lt_trichotomy L.length n with h | h | h
  · rw [if_neg (by omega), if_neg (by omega), if_neg (by omega)]
  · rw [if_pos (by omega), if_pos h, List.take_of_length_le (by simp [h])]
  · rw [if_pos (by omega), if_neg (by omega), if_pos (by omega), List.take_append_of_le_length (by omega)]

/-- ACC after the bytes `L` (R150). -/
def State.accAfter (s : State) (L : List Byte) : Word := L.foldl shiftIn s.eng.acc

/-- A running DECODE started in `s` once it has consumed the bytes `L`, none of them the frame's last. -/
def State.received (L : List Byte) (s : State) : State :=
  { s with
    rx := { s.rx with
      count := BitVec.ofNat 17 L.length
      size := fieldAfter 4 s.rx.size s.accAfter L
      apiKey := fieldAfter 6 s.rx.apiKey (fun M => (s.accAfter M).extractLsb' 0 16) L
      apiVersion := fieldAfter 8 s.rx.apiVersion (fun M => (s.accAfter M).extractLsb' 0 16) L
      corrId := fieldAfter 12 s.rx.corrId s.accAfter L }
    eng := { s.eng with acc := s.accAfter (L.take 12) }
    mem := Memory.writeAll s.mem rxBase (L.drop 12) }

theorem State.received_count {L : List Byte} (s : State) (h : L.length < 131072) :
    (s.received L).rx.count.toNat = L.length := by
  rw [State.received, BitVec.toNat_ofNat, Nat.mod_eq_of_lt h]

theorem Memory.writeAll_concat (m : Memory) (x : Nat) (L : List Byte) (b : Byte) :
    Memory.writeAll m x (L ++ [b]) = Memory.write (Memory.writeAll m x L) (x + L.length) b := by
  induction L generalizing m x with
  | nil => rfl
  | cons c L ih =>
    rw [List.cons_append, Memory.writeAll, ih, Memory.writeAll, List.length_cons, Nat.add_right_comm, Nat.add_assoc]

/-- Each header byte brings the closed form one byte further. -/
theorem State.received_took {L : List Byte} (b : Byte) (s : State) (h : L.length < 12) :
    (s.received L).took b = s.received (L ++ [b]) := by
  have hk : (s.received L).rx.count.toNat = L.length := s.received_count (by omega)
  have hacc : shiftIn (s.accAfter (L.take 12)) b = s.accAfter (L ++ [b]) := by
    simp [State.accAfter, List.take_of_length_le h.le]
  have hL : (L ++ [b]).take 12 = L ++ [b] := List.take_of_length_le (by simp; omega)
  have hd : (L ++ [b]).drop 12 = L.drop 12 := by
    rw [List.drop_of_length_le h.le, List.drop_of_length_le (by simp; omega)]
  rw [State.took, State.countByte, hk, if_pos (by omega)]
  simp only [State.received, State.storeField, fieldAfter_concat, hL, hd, hacc, List.length_append, List.length_singleton,
    BitVec.ofNat_add]
  by_cases h3 : L.length = 3
  · simp [h3]
  by_cases h5 : L.length = 5
  · simp [h5]
  by_cases h7 : L.length = 7
  · simp [h7]
  by_cases h11 : L.length = 11 <;> simp [h3, h5, h7, h11]

/-- Each body byte brings the closed form one byte further. -/
theorem State.received_tookBody {L : List Byte} (b : Byte) (s : State) (h : 12 ≤ L.length) (hl : L.length < 131072) :
    (s.received L).tookBody b = s.received (L ++ [b]) := by
  have hk : (s.received L).rx.count.toNat = L.length := s.received_count hl
  rw [State.tookBody_eq (by omega), hk]
  have hn (n : Nat) (hn : n ≤ 11) : ¬ L.length = n := by omega
  simp [State.received, fieldAfter_concat, hn, List.drop_append_of_le_length h, List.take_append_of_le_length h,
    Memory.writeAll_concat, BitVec.ofNat_add]

/-- A frame's bytes that name their own length and whose body fits a buffer of `n` bytes (R100, R153). -/
structure FrameFits (n : Nat) (F : List Byte) : Prop where
  size : F.take 4 = be4 (BitVec.ofNat 32 (F.length - 4))
  header : 12 ≤ F.length
  body : F.length ≤ 12 + n

theorem requestFrame_length (apiKey apiVersion : Half) (corrId : Word) (body : List Byte) :
    (requestFrame apiKey apiVersion corrId body).length = 12 + body.length := by
  simp [requestFrame, be4, be2]
  omega

theorem requestFrame_fits {n : Nat} (apiKey apiVersion : Half) (corrId : Word) {body : List Byte} (h : body.length ≤ n) :
    FrameFits n (requestFrame apiKey apiVersion corrId body) where
  size := by
    rw [requestFrame_length, show 12 + body.length - 4 = 8 + body.length by omega]
    rfl
  header := by rw [requestFrame_length]; omega
  body := by rw [requestFrame_length]; omega

theorem FrameFits.size_toInt {s : State} {F : List Byte} (hF : FrameFits s.param.rxBytes F) :
    (BitVec.ofNat 32 (F.length - 4)).toInt = F.length - 4 := by
  have := hF.body
  have := hF.header
  have := s.param.rxBytes_le
  have hn : (BitVec.ofNat 32 (F.length - 4)).toNat = F.length - 4 := Nat.mod_eq_of_lt (by omega)
  rw [BitVec.toInt_eq_toNat_of_lt (by omega), hn]
  omega

/-- RX_SIZE from frame byte 3 on. -/
theorem FrameFits.received_size {s : State} {F L : List Byte} (hF : FrameFits s.param.rxBytes F) (hL : L <+: F)
    (h4 : 4 ≤ L.length) : (s.received L).rx.size = BitVec.ofNat 32 (F.length - 4) := by
  obtain ⟨M, rfl⟩ := hL
  have ht := hF.size
  rw [List.take_append_of_le_length h4] at ht
  simp only [State.received, fieldAfter, if_pos h4, State.accAfter, ht, foldl_shiftIn_be4]

/-- The byte after `L` is the last exactly where the frame's own length says so. -/
theorem FrameFits.lastByte_iff {s : State} {F L : List Byte} (hF : FrameFits s.param.rxBytes F) (hL : L <+: F) :
    lastByte L.length (s.received L).rx.size = true ↔ L.length + 1 = F.length := by
  have hheader := hF.header
  rw [lastByte_eq_true]
  by_cases h11 : 11 ≤ L.length
  · rw [hF.received_size hL (by omega), hF.size_toInt]
    omega
  · omega

/-- The step that consumes one byte of a frame that fits: the last completes the DECODE, any other goes on. -/
theorem runTurn_received {s : State} {F L : List Byte} {b : Byte} {p : List RxEvent} (hdec : s.eng.eop = .dec)
    (hp : s.env.rxPending = .byte b :: p) (hF : FrameFits s.param.rxBytes F) (hL : L ++ [b] <+: F) :
    runTurn .engine (s.received L) = .next (if L.length + 1 = F.length then
      ((s.consumed p).received (L ++ [b])).finishDecode else (s.consumed p).received (L ++ [b])) := by
  have hlen : L.length + 1 ≤ F.length := by simpa using hL.length_le
  have hheader := hF.header
  have hbody := hF.body
  have hrx := s.param.rxBytes_le
  have hk : (s.received L).rx.count.toNat = L.length := s.received_count (by omega)
  have hlast := hF.lastByte_iff ((List.prefix_append L [b]).trans hL)
  by_cases h12 : 12 ≤ L.length
  · have hroom : L.length - 12 < s.param.rxBytes := by omega
    have hrun := runTurn_body (s := s.received L) hdec hp (hk ▸ h12) (hk.symm ▸ hroom)
    simp only [hk, hlast] at hrun
    exact hrun.trans (by rw [← State.received_tookBody b _ h12 (by omega)]; rfl)
  by_cases h3 : L.length = 3
  · have ht : ((s.received L).consumed p).took b = (s.consumed p).received (L ++ [b]) :=
      (s.consumed p).received_took b (by omega)
    have hsize : sizeError ((s.consumed p).received (L ++ [b])).rx.size s.param.rxBytes = none := by
      rw [FrameFits.received_size (s := s.consumed p) hF hL (by simp; omega), sizeError_eq_none, hF.size_toInt]
      omega
    have hrun := decodeByte_size (s := (s.received L).consumed p) (hk.trans h3) (ht.symm ▸ hsize)
    rw [runTurn_engine_dec (s := s.received L) hdec hp, decodeStep, hrun, ht, if_neg (by omega)]
  · have hrun := runTurn_header (s := s.received L) hdec hp (by omega) (by omega)
    simp only [hk, hlast] at hrun
    exact hrun.trans (by rw [← State.received_took b _ (by omega)]; rfl)

/-- The events RXSRC has on offer and the turns placed. -/
def State.offering (p : List RxEvent) (a : List Turn) (s : State) : State :=
  { s with env := { s.env with rxPending := p, agenda := a } }

/-- The step of a placed ENGINE turn, on the closed form. -/
theorem step_received {s : State} {F L : List Byte} {b : Byte} (hdec : s.eng.eop = .dec)
    (hF : FrameFits s.param.rxBytes F) (hL : L ++ [b] <+: F) (p : List RxEvent) (a : List Turn) :
    step ((s.offering (.byte b :: p) (.engine :: a)).received L) = .next (if L.length + 1 = F.length then
      ((s.offering p a).received (L ++ [b])).finishDecode else (s.offering p a).received (L ++ [b])) :=
  ((stepTakesTheNextTurn _).1 .engine a rfl).trans
    (runTurn_received (s := s.offering (.byte b :: p) a) hdec rfl hF hL)

/-- One ENGINE turn a byte takes a running DECODE through any part of a frame but its last byte. -/
theorem run_received {s : State} {F : List Byte} (hdec : s.eng.eop = .dec) (hF : FrameFits s.param.rxBytes F)
    {L M N : List Byte} (h : L ++ M ++ N = F) (hN : N ≠ []) (p : List RxEvent) (a : List Turn) (m : Nat) :
    core.run (M.length + m)
        ((s.offering (M.map .byte ++ p) (List.replicate M.length .engine ++ a)).received L) =
      core.run m ((s.offering p a).received (L ++ M)) := by
  induction M generalizing L with
  | nil => simp
  | cons b M ih =>
    have hlen : L.length + 1 ≠ F.length := by
      have hpos := List.length_pos_iff.2 hN
      have hsum := congrArg List.length h
      simp only [List.length_append, List.length_cons] at hsum
      omega
    have hstep := step_received hdec hF (L := L) (b := b) ⟨M ++ N, by simpa using h⟩ (M.map .byte ++ p)
      (List.replicate M.length .engine ++ a)
    rw [if_neg hlen] at hstep
    have ih' := ih (L := L ++ [b]) (by simpa using h)
    rw [List.append_assoc, List.singleton_append] at ih'
    rw [← ih', List.length_cons, Nat.add_right_comm]
    exact run_succ hstep _

/-- One ENGINE turn a byte takes a running DECODE through a whole frame, which its last byte completes. -/
theorem run_frame {s : State} {F : List Byte} (hdec : s.eng.eop = .dec) (hF : FrameFits s.param.rxBytes F)
    (p : List RxEvent) (a : List Turn) :
    core.run F.length ((s.offering (F.map .byte ++ p) (List.replicate F.length .engine ++ a)).received []) =
      .next ((s.offering p a).received F).finishDecode := by
  obtain rfl | ⟨M, b, rfl⟩ := F.eq_nil_or_concat'
  · exact absurd hF.header (by decide)
  · have hbytes := run_received hdec hF (L := []) rfl (List.cons_ne_nil b []) (.byte b :: p) (.engine :: a) 1
    have hlast := step_received hdec hF List.prefix_rfl p a
    rw [if_pos (by simp)] at hlast
    simp only [List.map_append, List.length_append, List.length_singleton, List.replicate_add, List.append_assoc]
    exact hbytes.trans (run_succ hlast 0)

/-! ### Whole transfers -/

theorem fieldAfter_of_le {w n : Nat} {old : BitVec w} {f : List Byte → BitVec w} {L : List Byte} (h : n ≤ L.length) :
    fieldAfter n old f L = f (L.take n) := if_pos h

/-- The header registers once a whole request frame has been consumed (R100, R154). -/
theorem State.received_requestFrame (s : State) (apiKey apiVersion : Half) (corrId : Word) (body : List Byte) :
    (s.received (requestFrame apiKey apiVersion corrId body)).rx = { s.rx with
      count := BitVec.ofNat 17 (12 + body.length)
      size := BitVec.ofNat 32 (8 + body.length), apiKey := apiKey, apiVersion := apiVersion, corrId := corrId } := by
  have hle (n : Nat) (hn : n ≤ 12) : n ≤ (requestFrame apiKey apiVersion corrId body).length := by
    rw [requestFrame_length]
    omega
  have hsize : s.accAfter ((requestFrame apiKey apiVersion corrId body).take 4) = BitVec.ofNat 32 (8 + body.length) :=
    foldl_shiftIn_be4 _ _
  have hkey : (s.accAfter ((requestFrame apiKey apiVersion corrId body).take 6)).extractLsb' 0 16 = apiKey := by
    rw [show (requestFrame apiKey apiVersion corrId body).take 6 = be4 _ ++ be2 apiKey from rfl, State.accAfter,
      List.foldl_append, foldl_shiftIn_be2]
  have hversion : (s.accAfter ((requestFrame apiKey apiVersion corrId body).take 8)).extractLsb' 0 16 = apiVersion := by
    rw [show (requestFrame apiKey apiVersion corrId body).take 8 = be4 _ ++ be2 apiKey ++ be2 apiVersion from rfl,
      State.accAfter, List.foldl_append, foldl_shiftIn_be2]
  have hcorr : s.accAfter ((requestFrame apiKey apiVersion corrId body).take 12) = corrId := by
    rw [show (requestFrame apiKey apiVersion corrId body).take 12 = be4 _ ++ be2 apiKey ++ be2 apiVersion ++ be4 corrId
      from rfl, State.accAfter, List.foldl_append, foldl_shiftIn_be4]
  rw [State.received, fieldAfter_of_le (hle 4 (by decide)), fieldAfter_of_le (hle 6 (by decide)),
    fieldAfter_of_le (hle 8 (by decide)), fieldAfter_of_le (hle 12 (by decide)), hsize, hkey, hversion, hcorr,
    requestFrame_length]

theorem State.received_rxByte (s : State) {L : List Byte} {j : Nat} (hj : j < (L.drop 12).length) :
    (s.received L).rxByte j = (L.drop 12).getD j 0 := by
  rw [State.rxByte, State.byteAt, List.getD_eq_getElem _ _ hj]
  exact congrArg (Option.getD · _) (Memory.read?_writeAll _ _ _ _ hj)

/-- A DECODE just issued, the host answered. -/
def State.decodeStarted (s : State) : State := ((s.respond .okWrite).beginIssue 0x01).startDecode

theorem step_decode {s : State} {a : List Turn} (hb : s.busy = false) (hc : s.status.rxClosed = false)
    (ha : s.env.agenda = .host (.write 0x010 .four 0x01000000) :: a) :
    step s = .next ((s.decodeStarted.offering s.env.rxPending a).received []) :=
  ((stepIssuesTheCommand s _ _ ha).1 hb .decode rfl).trans (exec_decode_open hc)

/-- Settles O33: the turns before the last take the DECODE through all bytes but one, and the last byte completes it. -/
theorem decodeReceivesTheFrame : Obligations.DecodeReceivesTheFrame := by
  intro s apiKey apiVersion corrId body rest later hb hc hfit hp ha
  set F := requestFrame apiKey apiVersion corrId body
  have hlen : F.length = 12 + body.length := requestFrame_length ..
  have hF : FrameFits s.decodeStarted.param.rxBytes F := requestFrame_fits _ _ _ hfit
  have hrx : body.length ≤ 65536 := hfit.trans s.param.rxBytes_le
  rw [← hlen] at ha
  have hrun := run_frame (s := s.decodeStarted) rfl hF rest later
  rw [← hp] at hrun
  have hrxRegs := (s.decodeStarted.offering rest later).received_requestFrame apiKey apiVersion corrId body
  refine ⟨((s.decodeStarted.offering rest later).received F).finishDecode, ?_, rfl, rfl, rfl, hc, ?_⟩
  · rw [show 13 + body.length = F.length + 1 by omega]
    exact (run_succ (step_decode hb hc ha) _).trans hrun
  have hbody : ((BitVec.ofNat 32 (8 + body.length) - 8#32).setWidth 17).toNat = body.length := by
    rw [BitVec.ofNat_add, add_sub_cancel_left, BitVec.setWidth_ofNat_of_le (by decide), BitVec.toNat_ofNat]
    omega
  have hcount : (BitVec.ofNat 17 (12 + body.length)).toNat = 12 + body.length := by
    rw [BitVec.toNat_ofNat]
    omega
  rw [State.finishDecode_rx, State.finishDecode_tx, hrxRegs]
  exact ⟨rfl, rfl, rfl, rfl, hbody, rfl, hcount, rfl, rfl, fun j hj => State.received_rxByte _ (L := F) hj, rfl, rfl⟩

theorem decodeStep_eos_midFrame {s : State} (h : 0 < s.rx.count.toNat) :
    decodeStep .eos s = .next (s.failRx .truncatedFrame) := by
  rw [decodeStep, if_neg fun h0 => by simp [h0] at h]

/-- Settles O34: the bytes before `Eos` leave the DECODE running, and `Eos` ends it. -/
theorem decodeOfShortStreamIsTruncated : Obligations.DecodeOfShortStreamIsTruncated := by
  intro s apiKey apiVersion corrId body rest later k hb hc hfit hk1 hk hp ha
  set F := requestFrame apiKey apiVersion corrId body
  have hlen : F.length = 12 + body.length := requestFrame_length ..
  have hF : FrameFits s.decodeStarted.param.rxBytes F := requestFrame_fits _ _ _ hfit
  have hrx : body.length ≤ 65536 := hfit.trans s.param.rxBytes_le
  have htake : (F.take k).length = k := List.length_take_of_le (by omega)
  have hdrop : F.drop k ≠ [] := by
    rw [Ne, List.drop_eq_nil_iff]
    omega
  have hbytes := run_received (s := s.decodeStarted) (L := []) rfl hF (List.take_append_drop k F) hdrop (.eos :: rest)
    (.engine :: later) 1
  rw [htake, ← hp] at hbytes
  have hcount : ((s.decodeStarted.offering rest later).received (F.take k)).rx.count.toNat = k :=
    (State.received_count _ (by omega)).trans htake
  have heos : step ((s.decodeStarted.offering (.eos :: rest) (.engine :: later)).received (F.take k)) =
      .next (((s.decodeStarted.offering rest later).received (F.take k)).failRx .truncatedFrame) :=
    ((stepTakesTheNextTurn _).1 .engine later rfl).trans
      ((runTurn_engine_dec rfl rfl).trans (decodeStep_eos_midFrame (hk1.trans_eq hcount.symm)))
  rw [List.replicate_succ', List.append_assoc] at ha
  exact ⟨_, (run_succ (step_decode hb hc ha) _).trans (hbytes.trans (run_succ heos 0)), rfl, rfl, rfl, rfl, rfl, hcount,
    rfl, rfl, rfl, rfl⟩

end Sys2Proof.Machine
end

section
/-! PROOF. The ENCODE to a TXSINK that accepts each byte (41_frame.md R160 to R162), followed through a closed form of the
state after any number of bytes. -/
namespace Sys2Proof.Machine

/-- The bytes a running ENCODE sends, all together (R101, R160). -/
theorem State.map_frameByte (s : State) :
    (List.range (8 + s.eng.elen.toNat)).map s.frameByte =
      be4 s.eng.emsz ++ be4 s.eng.ecid ++ s.txBytesAt 0 s.eng.elen.toNat := by
  apply List.ext_getElem?
  intro j
  by_cases hj : j < 8 + s.eng.elen.toNat
  · rw [s.frameByte_eq j hj]
    simp [hj]
  · rw [List.getElem?_eq_none (by simp; omega), List.getElem?_eq_none (by simp [be4, State.txBytesAt]; omega)]

/-- A running ENCODE started in `s` once it has sent `n` bytes, with TXSINK's answer and the turns placed. -/
def State.delivered (n : Nat) (r : Option TxAnswer) (a : List Turn) (s : State) : State :=
  { s with
    env := { s.env with txReady := r, txSent := s.env.txSent ++ (List.range n).map s.frameByte, agenda := a }
    tx := { s.tx with count := BitVec.ofNat 17 n } }

theorem State.delivered_sent (n : Nat) (r : Option TxAnswer) (a : List Turn) (s : State) :
    (s.delivered n r a).sent (s.frameByte n) = s.delivered (n + 1) r a := by
  simp [State.sent, State.delivered, List.range_succ, BitVec.ofNat_add]

/-- An ENGINE turn with TXSINK ready to accept sends one byte; the last completes the ENCODE. -/
theorem step_sends {s : State} {n : Nat} (henc : s.eng.eop = .enc) (hlen : s.eng.elen.toNat ≤ s.param.txBytes)
    (hn : n < 8 + s.eng.elen.toNat) (a : List Turn) :
    step (s.delivered n (some .ok) (.engine :: a)) = .next (if n + 1 = 8 + s.eng.elen.toNat then
      (s.delivered (n + 1) none a).completeOk else s.delivered (n + 1) none a) := by
  have hcount : (s.delivered n (some .ok) a).tx.count.toNat = n := by
    have := s.param.txBytes_le
    exact Nat.mod_eq_of_lt (show n < 131072 by omega)
  have hsent : (s.delivered n (some .ok) a).answered.sent ((s.delivered n (some .ok) a).frameByte n) =
      s.delivered (n + 1) none a := s.delivered_sent n none a
  have hsend := runTurn_sends (s := s.delivered n (some .ok) a) henc rfl (hcount.trans_lt hn) hlen
  rw [hcount, hsent] at hsend
  exact ((stepTakesTheNextTurn _).1 .engine a rfl).trans hsend

/-- TXSINK's Ok comes before the turn that takes it. -/
theorem run_ok_then {s t : State} {n : Nat} {a : List Turn} (h : step (s.delivered n (some .ok) a) = .next t)
    (r : Option TxAnswer) (m : Nat) : core.run (m + 2) (s.delivered n r (.txsink .ok :: a)) = core.run m t := by
  have hready : step (s.delivered n r (.txsink .ok :: a)) = .next (s.delivered n (some .ok) a) := by
    rw [(stepTakesTheNextTurn _).1 (.txsink .ok) a rfl]
    rfl
  exact (run_succ hready _).trans (run_succ h m)

/-- The rest of a running ENCODE, with an Ok for each byte left. -/
theorem run_sends {s : State} (henc : s.eng.eop = .enc) (hlen : s.eng.elen.toNat ≤ s.param.txBytes) (a : List Turn)
    {j n : Nat} (h : n + (j + 1) = 8 + s.eng.elen.toNat) (r : Option TxAnswer) :
    core.run (2 * (j + 1)) (s.delivered n r ((List.replicate (j + 1) [Turn.txsink .ok, .engine]).flatten ++ a)) =
      .next (s.delivered (8 + s.eng.elen.toNat) none a).completeOk := by
  have hsend := step_sends henc hlen (show n < _ by omega) ((List.replicate j [Turn.txsink .ok, .engine]).flatten ++ a)
  induction j generalizing n r with
  | zero =>
    rw [if_pos (by omega), h] at hsend
    exact run_ok_then hsend r 0
  | succ j ih =>
    rw [if_neg (by omega)] at hsend
    exact (run_ok_then hsend r _).trans (ih (by omega) none (step_sends henc hlen (by omega) _))

/-- An ENCODE just issued, the host answered. -/
def State.encodeStarted (s : State) : State := ((s.respond .okWrite).beginIssue 0x02).startEncode

theorem step_encode {s : State} {a : List Turn} (hb : s.busy = false) (hc : s.status.txClosed = false)
    (ha : s.env.agenda = .host (.write 0x010 .four 0x02000000) :: a) :
    step s = .next (s.encodeStarted.delivered 0 s.env.txReady a) := by
  have hstep : step s = .next { s.encodeStarted with env := { s.encodeStarted.env with agenda := a } } :=
    ((stepIssuesTheCommand s _ _ ha).1 hb .encode rfl).trans (exec_encode_open hc)
  simp only [hstep, State.delivered, List.range_zero, List.map_nil, List.append_nil]
  rfl

/-- Settles O38: each pair of turns sends the next byte of the frame, which the latched operands make the response frame. -/
theorem encodeSendsTheFrame : Obligations.EncodeSendsTheFrame := by
  intro s later hb hc hlen ha
  have hrun := run_sends (s := s.encodeStarted) rfl hlen later
    (show 0 + (7 + s.tx.len.toNat + 1) = 8 + s.tx.len.toNat by omega) s.env.txReady
  rw [show 7 + s.tx.len.toNat + 1 = 8 + s.tx.len.toNat by omega] at hrun
  have hframe : (List.range (8 + s.tx.len.toNat)).map s.encodeStarted.frameByte =
      responseFrame s.tx.corrId (s.txBytesAt 0 s.tx.len.toNat) := by
    have hemsz : 4#32 + s.tx.len.setWidth 32 = BitVec.ofNat 32 (4 + (s.txBytesAt 0 s.tx.len.toNat).length) := by
      rw [State.txBytesAt, List.length_map, List.length_range, ← Len.toNat_four_add, BitVec.ofNat_toNat,
        BitVec.setWidth_eq]
    rw [responseFrame, ← hemsz]
    exact s.encodeStarted.map_frameByte
  have hcount : (BitVec.ofNat 17 (8 + s.tx.len.toNat)).toNat = 8 + s.tx.len.toNat := by
    have := s.param.txBytes_le
    exact Nat.mod_eq_of_lt (by omega)
  refine ⟨(s.encodeStarted.delivered (8 + s.tx.len.toNat) none later).completeOk, ?_, ?_, rfl, rfl, rfl, hcount, rfl, rfl,
    fun _ => rfl, rfl⟩
  · rw [Nat.add_comm 1]
    exact (run_succ (step_encode hb hc ha) _).trans hrun
  · exact congrArg (s.env.txSent ++ ·) hframe

end Sys2Proof.Machine
end

section
/-! PROOF. The response-body commands (42_txbuild.md R180 to R187): their words, the append every PUT shares, and TXSEEK. -/
namespace Sys2Proof.Machine

/-! ### Words -/

/-- The IMM field is or-ed into the word of the fields above it (R110). -/
theorem commandWord_or (opc : Byte) (s n : Bool) (imm : Half) :
    commandWord opc s n imm = commandWord opc s n 0 ||| imm.setWidth 32 := by
  have happend (hi : Half) : hi ++ imm = (hi ++ (0 : Half)) ||| imm.setWidth 32 := by
    apply BitVec.eq_of_toNat_eq
    rw [BitVec.toNat_append, BitVec.toNat_or, BitVec.toNat_append, BitVec.toNat_setWidth_of_le (by decide)]
    simp
  exact happend _

/-! ### The append -/

theorem appended_appends {L : List Byte} {s : State} (opc : Byte)
    (h : s.tx.len.toNat + L.length ≤ s.param.txBytes) : Appends opc L s ((s.beginIssue opc).appended L) where
  len := State.appended_len (s := s.beginIssue opc) h
  stored := State.appended_txByte L (s.beginIssue opc)
  others _ := State.appended_others L (s.beginIssue opc)
  rest := rfl

/-- A command whose rule is `put_bytes(L)` has the two ends of a PUT (R180). -/
theorem appendsOrFull_of_exec {i : Instr} {L : List Byte} {s : State} (h : exec i s = putBytes L (s.beginIssue i.opc)) :
    AppendsOrFull i i.opc L s :=
  ⟨fun hroom => ⟨_, h.trans (putBytes_room hroom), appended_appends i.opc hroom⟩,
    fun hfull => h.trans (putBytes_full hfull)⟩

/-- A PUTCA form whose count plus 1 fits 32 bits appends that varint (R187). -/
theorem appendCa_fits {v : Word} (hv : v ≠ 0xFFFFFFFF#32) (s : State) : appendCa v s = putBytes (uvBytes (v + 1)) s :=
  if_neg hv

/-- A count of 0xFFFF_FFFF overflows, whether or not there is room (R187). -/
theorem appendCa_overflow (s : State) : appendCa 0xFFFFFFFF#32 s = .next (s.raise .varintOverflow) := rfl

/-! ### Immediate operands -/

theorem immOperand_toNat (imm : Half) : (immOperand imm).toNat = imm.toNat :=
  BitVec.toNat_setWidth_of_le (by decide)

/-- No 16-bit count overflows. -/
theorem immOperand_ne_max (imm : Half) : immOperand imm ≠ 0xFFFFFFFF#32 := by
  intro h
  have hmax : imm.toNat = 0xFFFFFFFF := by rw [← immOperand_toNat, h]; rfl
  omega

theorem Word.add_one_eq_ofNat (v : Word) : v + 1 = BitVec.ofNat 32 (v.toNat + 1) := by
  rw [BitVec.ofNat_add, BitVec.ofNat_toNat, BitVec.setWidth_eq]
  rfl

/-- The byte a PUT8I appends (R112, R183). -/
theorem beBytes_one_imm8Operand (imm : Half) : beBytes 1 (imm8Operand imm) = [imm.extractLsb' 0 8] := by
  rw [beBytes_one, imm8Operand, ← BitVec.setWidth_eq_extractLsb' (by decide)]
  simp

/-- The upper bytes of the four a PUT32I appends are 0 (R112, R185). -/
theorem beBytes_four_immOperand (imm : Half) :
    beBytes 4 (immOperand imm) = [0, 0, imm.extractLsb' 8 8, imm.extractLsb' 0 8] := by
  have hupper (k : Nat) (hk : 16 ≤ k) : (immOperand imm).extractLsb' k 8 = 0 := by
    ext i hi
    simp [immOperand, BitVec.getLsbD_of_ge imm (k + i) (by omega)]
  have hlower := beBytes_two_immOperand imm
  rw [beBytes_two, List.cons.injEq, List.cons.injEq] at hlower
  obtain ⟨hhigh, hlow, -⟩ := hlower
  rw [beBytes_four, hupper 24 (by decide), hupper 16 (by decide), hhigh, hlow]

/-! ### The PUT forms -/

/-- Settles O12: each form is `put_bytes` of one byte of its operand. -/
theorem put8AppendsOneByte : Obligations.Put8AppendsOneByte := by
  intro s imm
  refine ⟨rfl, fun _ => commandWord_or 0x10 true false imm, ?_, ?_⟩
  · rw [← beBytes_one]
    exact appendsOrFull_of_exec rfl
  · rw [← beBytes_one_imm8Operand]
    exact appendsOrFull_of_exec rfl

/-- Settles O13: each form is `put_bytes` of two bytes of its operand. -/
theorem put16AppendsBigEndian : Obligations.Put16AppendsBigEndian := by
  intro s imm
  refine ⟨rfl, encode_put16i imm, ?_, ?_⟩
  · rw [← beBytes_two]
    exact appendsOrFull_of_exec rfl
  · rw [← beBytes_two_immOperand]
    exact appendsOrFull_of_exec rfl

/-- Settles O14: each form is `put_bytes` of the four bytes of its operand. -/
theorem put32AppendsBigEndian : Obligations.Put32AppendsBigEndian := by
  intro s imm
  refine ⟨rfl, commandWord_or 0x12 true false imm, ?_, ?_⟩
  · rw [← beBytes_four]
    exact appendsOrFull_of_exec rfl
  · rw [← beBytes_four_immOperand]
    exact appendsOrFull_of_exec rfl

/-- Settles O15: each form is `put_bytes` of its operand's varint. -/
theorem putuvAppendsVarint : Obligations.PutuvAppendsVarint :=
  fun _ imm => ⟨rfl, commandWord_or 0x13 true false imm, appendsOrFull_of_exec rfl, appendsOrFull_of_exec rfl⟩

/-- Settles O16: only VALUE can hold the count that overflows; any other is `put_bytes` of the varint one above it. -/
theorem putcaAppendsLength : Obligations.PutcaAppendsLength := by
  intro s imm
  refine ⟨rfl, commandWord_or 0x14 true false imm, rfl, fun hv => ?_, fun hv => ?_, ?_, appendsOrFull_of_exec rfl⟩
  · rw [exec, execPutca, hv, appendCa_overflow]
    exact congrArg _ (State.raise_beginIssue _ _ _)
  · rw [← Word.add_one_eq_ofNat]
    exact appendsOrFull_of_exec (appendCa_fits hv _)
  · rw [← immOperand_toNat, ← Word.add_one_eq_ofNat]
    exact appendsOrFull_of_exec (appendCa_fits (immOperand_ne_max imm) _)

/-! ### TXSEEK -/

theorem exec_txseek_inside {s : State} {off : Half} (h : off.toNat ≤ s.param.txBytes) :
    exec (.txseek off) s = .next { s with
      tx := { s.tx with len := off.setWidth 17 }, status := doneStatus 0x09 s, eng := { s.eng with eop := .idle } } :=
  if_neg (Nat.not_lt.2 h)

theorem exec_txseek_beyond {s : State} {off : Half} (h : s.param.txBytes < off.toNat) :
    exec (.txseek off) s = .next (rejected 0x09 .bufFull s) :=
  if_pos h

/-- Settles O11: the offset's bound decides between the two ends, and an offset fits TX_LEN. -/
theorem txseekSetsTheCursor : Obligations.TxseekSetsTheCursor :=
  fun _ off => ⟨commandWord_or 0x09 false false off,
    fun h => ⟨_, exec_txseek_inside h, BitVec.toNat_setWidth_of_le (by decide), rfl⟩, exec_txseek_beyond⟩

/-! ### The frame of the PUT forms -/

theorem isGet_of_isPut {i : Instr} (h : isPut i = true) : isGet i = false := by
  cases i with
  | decode | encode | rxseek | txseek | get8 | get16 | get32 | getuv | getca => cases h
  | put8 | put8i | put16 | put16i | put32 | put32i | putuv | putuvi | putca | putcai | putcan => rfl

/-- A command stores only at the bytes its TX_LEN moves over. -/
theorem CommandEffect.byteAt_off_cursor {s t : State} {i : Instr} (h : CommandEffect s i t) {a : Nat}
    (ha : ¬ (txBase + s.tx.len.toNat ≤ a ∧ a < txBase + t.tx.len.toNat)) : t.byteAt a = s.byteAt a := by
  cases h with
  | appends _ _ L hroom =>
    rw [State.appended_len (s := s.beginIssue i.opc) hroom, ← Nat.add_assoc] at ha
    exact State.appended_others L (s.beginIssue i.opc) ha
  | _ => rfl

/-- Settles O10: each clause is what the effects of a command that appends can write. -/
theorem putFrame : Obligations.PutFrame := by
  intro imm s t i hi h
  have he := exec_effect h
  have hput : isPut i = true := by
    revert i
    simp [isPut]
  have hother {j : Instr} (hj : isPut j = false) : i ≠ j := ne_of_apply_ne isPut (by simp [hput, hj])
  have hget := isGet_of_isPut hput
  exact ⟨he.value hget, he.rx (hother rfl) hget fun _ => hother rfl, he.txCount (hother rfl),
    fun _ => he.byteAt_off_cursor⟩

end Sys2Proof.Machine
end

section
/-! PROOF. The request-body commands (43_rxread.md R210 to R219): RXSEEK, the fixed-width GETs, the varint GETs, and the
inverse law of the varints. -/
namespace Sys2Proof.Machine

/-! ### The decoder of varints -/

/-- The loop of R108 past `m` continuation bytes has gathered the value of their groups. -/
theorem uvDecode_eq_from {read : Nat → Byte} {p len m fuel : Nat} (hm : m + fuel = 4)
    (hmore : ∀ j, j < m → 128 ≤ (read (p + j)).toNat) (hin : ∀ j, j < m → p + j < len) :
    uvDecode read p len = uvDecodeFrom read p len (fuel + 1) m (varintValue read p m) := by
  induction m generalizing fuel with
  | zero =>
    obtain rfl : fuel = 4 := by omega
    rfl
  | succ m ih =>
    have hprev := ih (fuel := fuel + 1) (by omega) (fun j hj => hmore j (by omega)) fun j hj => hin j (by omega)
    rw [hprev, uvDecodeFrom_more _ _ _ _ _ _ (hin m (by omega)) (hmore m (by omega)) (by omega), ← varintValue_succ]

/-- A varint inside the body decodes to its value and its length, in its shortest form or not. -/
theorem uvDecode_of_varintAt {read : Nat → Byte} {p len n : Nat} (h : VarintAt read p n) (hin : p + n ≤ len) :
    uvDecode read p len = .ok (BitVec.ofNat 32 (varintValue read p n), n) := by
  obtain ⟨⟨hpos, hle⟩, hmore, hlast, hfits⟩ := h
  obtain ⟨m, rfl⟩ : ∃ m, n = m + 1 := ⟨n - 1, by omega⟩
  rw [Nat.add_sub_cancel] at hlast
  have hfifth : m = 4 → (read (p + m)).toNat ≤ 15 := by
    rintro rfl
    exact hfits rfl
  have hskip : uvDecode read p len = uvDecodeFrom read p len (4 - m + 1) m (varintValue read p m) :=
    uvDecode_eq_from (by omega) (fun j hj => hmore j (by omega)) fun j hj => by omega
  rw [hskip, uvDecodeFrom_last _ _ _ _ _ _ (by omega) hlast hfifth, ← varintValue_succ]

theorem uvDecode_endOfData {read : Nat → Byte} {p len m : Nat} (hm : m < 5)
    (hmore : ∀ j, j < m → 128 ≤ (read (p + j)).toNat) (hin : ∀ j, j < m → p + j < len) (hend : len ≤ p + m) :
    uvDecode read p len = .error .endOfData := by
  rw [uvDecode_eq_from (fuel := 4 - m) (by omega) hmore hin, uvDecodeFrom_end _ _ _ _ _ _ hend]

theorem uvDecode_overflow {read : Nat → Byte} {p len : Nat} (hmore : ∀ j, j < 4 → 128 ≤ (read (p + j)).toNat)
    (hin : p + 5 ≤ len) (hfifth : 15 < (read (p + 4)).toNat) : uvDecode read p len = .error .varintOverflow := by
  rw [uvDecode_eq_from (fuel := 0) rfl hmore (fun j hj => by omega), uvDecodeFrom_overflow _ _ _ _ _ (by omega) hfifth]

/-! ### The inverse of `uv_bytes` -/

theorem VarintAt.congr {read read' : Nat → Byte} {p p' n : Nat} (h : VarintAt read p n)
    (heq : ∀ j, j < n → read' (p' + j) = read (p + j)) : VarintAt read' p' n := by
  obtain ⟨hlen, hmore, hlast, hfits⟩ := h
  refine ⟨hlen, fun j hj => ?_, ?_, fun h5 => ?_⟩
  · rw [heq j (by omega)]
    exact hmore j hj
  · rwa [heq (n - 1) (by omega)]
  · rw [heq 4 (by omega)]
    exact hfits h5

theorem varintValue_congr {read read' : Nat → Byte} {p p' n : Nat} (heq : ∀ j, j < n → read' (p' + j) = read (p + j)) :
    varintValue read' p' n = varintValue read p n := by
  induction n with
  | zero => rfl
  | succ n ih => rw [varintValue_succ, varintValue_succ, ih fun j hj => heq j (by omega), heq n (by omega)]

/-- Where the bytes of `uv_bytes(u)` stand, a varint of value `u` stands. -/
theorem uvBytes_at {u : Word} {read : Nat → Byte} {p : Nat}
    (hread : ∀ j, j < (uvBytes u).length → read (p + j) = (uvBytes u).getD j 0) :
    VarintAt read p (uvBytes u).length ∧ BitVec.ofNat 32 (varintValue read p (uvBytes u).length) = u := by
  obtain ⟨-, hform, hvalue⟩ := uvBytesShortestForm u
  have heq : ∀ j, j < (uvBytes u).length → read (p + j) = (fun j => (uvBytes u).getD j 0) (0 + j) := by
    simpa only [Nat.zero_add] using hread
  refine ⟨hform.congr heq, ?_⟩
  rw [varintValue_congr (read := fun j => (uvBytes u).getD j 0) heq, hvalue, BitVec.ofNat_toNat, BitVec.setWidth_eq]

/-- `uv_decode` of a body that holds `uv_bytes(u)` (R219). -/
theorem uvDecode_uvBytes {u : Word} {read : Nat → Byte} {p len : Nat} (hin : p + (uvBytes u).length ≤ len)
    (hread : ∀ j, j < (uvBytes u).length → read (p + j) = (uvBytes u).getD j 0) :
    uvDecode read p len = .ok (u, (uvBytes u).length) := by
  obtain ⟨hat, hvalue⟩ := uvBytes_at hread
  rw [uvDecode_of_varintAt hat hin, hvalue]

/-! ### RXSEEK -/

theorem exec_rxseek_inside {s : State} {off : Half} (h : off.toNat ≤ s.rx.bodyLen.toNat) :
    exec (.rxseek off) s = .next { s with
      rx := { s.rx with pos := off.setWidth 17 }, status := doneStatus 0x08 s, eng := { s.eng with eop := .idle } } :=
  if_neg (Nat.not_lt.2 h)

theorem exec_rxseek_beyond {s : State} {off : Half} (h : s.rx.bodyLen.toNat < off.toNat) :
    exec (.rxseek off) s = .next (rejected 0x08 .endOfData s) :=
  if_pos h

/-- Settles O18: the offset's bound decides between the two ends, and an offset fits RX_POS. -/
theorem rxseekSetsTheCursor : Obligations.RxseekSetsTheCursor :=
  fun _ off => ⟨commandWord_or 0x08 false false off,
    fun h => ⟨_, exec_rxseek_inside h, Half.toNat_toLen off, rfl⟩, exec_rxseek_beyond⟩

/-! ### The fixed-width GETs -/

/-- Inside the body the cursor advances without wrapping. -/
theorem State.pos_add_toNat {s : State} {n : Nat} (h : s.rx.pos.toNat + n ≤ s.rx.bodyLen.toNat) :
    (s.rx.pos + BitVec.ofNat 17 n).toNat = s.rx.pos.toNat + n :=
  Len.toNat_add_ofNat _ _ (h.trans_lt s.rx.bodyLen.isLt)

/-- What every GET but GETCA leaves on success. -/
theorem setValue_reads {s : State} {n : Nat} (opc : Byte) (v : Word) (h : s.rx.pos.toNat + n ≤ s.rx.bodyLen.toNat) :
    Reads opc n v s (((s.beginIssue opc).advancePos n).setValue v).completeOk where
  pos := State.pos_add_toNat h
  memory _ := rfl
  rest := rfl

/-- A command whose rule is `get_bytes(n)` has the two ends of a fixed-width GET (R210). -/
theorem readsOrEnds_of_exec {i : Instr} {n : Nat} {s : State} (f : List Byte → Word)
    (h : exec i s = getBytes n (fun L t => (t.setValue (f L)).completeOk) (s.beginIssue i.opc))
    (hb : s.rx.bodyLen.toNat ≤ s.param.rxBytes) : ReadsOrEnds i i.opc n (f (s.rxBytesAt s.rx.pos.toNat n)) s :=
  ⟨fun hin => ⟨_, h.trans (getBytes_inside hb hin), setValue_reads i.opc _ hin⟩,
    fun hpast => h.trans (getBytes_past hb hpast)⟩

/-- Settles O19: GET8 is `get_bytes(1)`, its byte zero-extended. -/
theorem get8ReadsZeroExtended : Obligations.Get8ReadsZeroExtended := by
  refine ⟨rfl, fun s hb => ?_⟩
  rw [← beJoin_one, ← State.rxBytesAt_one]
  exact readsOrEnds_of_exec beJoin rfl hb

/-- Settles O20: GET16 is `get_bytes(2)`, its bytes joined in 16 bits and sign-extended. -/
theorem get16ReadsSignExtended : Obligations.Get16ReadsSignExtended := by
  refine ⟨rfl, fun s hb => ?_⟩
  have hjoin (a b : Byte) : (beJoin [a, b]).setWidth 16 = a ++ b := by
    rw [beJoin_two, BitVec.setWidth_setWidth_of_le _ (by decide), BitVec.setWidth_eq]
  rw [← hjoin, ← State.rxBytesAt_two]
  exact readsOrEnds_of_exec (fun L => ((beJoin L).setWidth 16).signExtend 32) rfl hb

/-- Settles O21: GET32 is `get_bytes(4)`, its bytes joined. -/
theorem get32ReadsBigEndian : Obligations.Get32ReadsBigEndian := by
  refine ⟨rfl, fun s hb => ?_⟩
  rw [← beJoin_four, ← State.rxBytesAt_four]
  exact readsOrEnds_of_exec beJoin rfl hb

/-! ### The varint GETs -/

/-- A command whose rule is `uv_decode` at the cursor has the three ends of a varint read (R108). -/
theorem varintEnds_of_exec {i : Instr} {k : Word → State → State} {good : Nat → Word → State → Prop} {s : State}
    (h : exec i s = getVarint k (s.beginIssue i.opc)) (hb : s.rx.bodyLen.toNat ≤ s.param.rxBytes)
    (hgood : ∀ n u, s.rx.pos.toNat + n ≤ s.rx.bodyLen.toNat → good n u (k u ((s.beginIssue i.opc).advancePos n))) :
    VarintEnds i i.opc good s :=
  ⟨fun n hv hin => ⟨_, h.trans (getVarint_ok hb (uvDecode_of_varintAt hv hin)), hgood n _ hin⟩,
    fun _ hm hmore hin hend => h.trans (getVarint_error hb (uvDecode_endOfData hm hmore hin hend)),
    fun hmore hin hfifth => h.trans (getVarint_error hb (uvDecode_overflow hmore hin hfifth))⟩

/-- Settles O22: GETUV is `uv_decode` at the cursor, its value in VALUE. -/
theorem getuvReadsVarint : Obligations.GetuvReadsVarint :=
  ⟨rfl, fun _ hb => varintEnds_of_exec (k := fun u t => (t.setValue u).completeOk) rfl hb
    fun _ u hin => setValue_reads 0x23 u hin⟩

theorem exec_getca (s : State) : exec .getca s = getVarint
    (fun u t =>
      if u = 0 then ((t.setVnull true).setValue 0).completeOk else ((t.setVnull false).setValue (u - 1)).completeOk)
    (s.beginIssue Instr.getca.opc) := rfl

/-- Settles O23: GETCA is `uv_decode` at the cursor, and the prefix 0 is the absent array. -/
theorem getcaReadsLength : Obligations.GetcaReadsLength := by
  refine ⟨rfl, fun s hb => varintEnds_of_exec (exec_getca s) hb fun n u hin => ?_⟩
  by_cases hu : u = 0
  · subst hu
    exact ⟨State.pos_add_toNat hin, fun _ => rfl, rfl⟩
  · simp only [hu, if_false, decide_false]
    exact ⟨State.pos_add_toNat hin, fun _ => rfl, rfl⟩

/-! ### The varint inverse law -/

/-- A PUT that ended with DONE has appended: without room it ends with ERR. -/
theorem AppendsOrFull.appends {i : Instr} {opc : Byte} {L : List Byte} {s t : State} (h : AppendsOrFull i opc L s)
    (ht : exec i s = .next t) (hdone : t.status.done = true) : Appends opc L s t := by
  obtain ⟨hroom, hfull⟩ := h
  by_cases hr : s.tx.len.toNat + L.length ≤ s.param.txBytes
  · obtain ⟨t', ht', happ⟩ := hroom hr
    obtain rfl : t' = t := Host.Outcome.next.inj (ht'.symm.trans ht)
    exact happ
  · obtain rfl : rejected opc .bufFull s = t := Host.Outcome.next.inj ((hfull (by omega)).symm.trans ht)
    cases hdone

/-- GETCA at bytes that a PUT of `uv_bytes(u)` appended reads the prefix `u` (R217, R219). -/
theorem exec_getca_of_appends {opc : Byte} {u : Word} {s t r : State} {n : Nat} (h : Appends opc (uvBytes u) s t)
    (hn : t.tx.len.toNat = s.tx.len.toNat + n) (hb : r.rx.bodyLen.toNat ≤ r.param.rxBytes)
    (hin : r.rx.pos.toNat + n ≤ r.rx.bodyLen.toNat)
    (hbytes : ∀ j, j < n → r.rxByte (r.rx.pos.toNat + j) = t.txByte (s.tx.len.toNat + j)) :
    ∃ q, exec .getca r = .next q ∧ q.rx.pos.toNat = r.rx.pos.toNat + n ∧ q.value = (if u = 0 then 0 else u - 1) ∧
      q.status.vnull = decide (u = 0) := by
  obtain rfl : n = (uvBytes u).length := Nat.add_left_cancel (hn.symm.trans h.len)
  obtain ⟨hat, hvalue⟩ := uvBytes_at fun j hj => (hbytes j hj).trans (h.stored j hj)
  obtain ⟨-, hends⟩ := getcaReadsLength
  obtain ⟨hread, -, -⟩ := hends r hb
  obtain ⟨q, hq, hpos, -, hrest⟩ := hread _ hat hin
  rw [hvalue] at hrest
  exact ⟨q, hq, hpos, hrest ▸ rfl, hrest ▸ rfl⟩

/-- The prefix of a count that PUTCA takes is not the absent array's. -/
theorem Word.add_one_ne_zero {v : Word} (h : v ≠ 0xFFFFFFFF#32) : v + 1 ≠ 0 := by
  bv_omega

/-- Settles O25: what PUTCA and PUTCAN append is `uv_bytes` of the prefix, which GETCA reads back. -/
theorem varintInverseLaw : Obligations.VarintInverseLaw := by
  refine ⟨fun u read p len => uvDecode_uvBytes, fun i s t r n hi ht hdone hn hb hin hbytes => ?_⟩
  obtain ⟨-, -, -, hover, hputca, -, hputcan⟩ := putcaAppendsLength s 0
  obtain rfl | rfl := hi
  · have hv : s.value ≠ 0xFFFFFFFF#32 := by
      intro hv
      obtain rfl := Host.Outcome.next.inj ((hover hv).symm.trans ht)
      cases hdone
    have hne := Word.add_one_ne_zero hv
    have happ := (hputca hv).appends ht hdone
    rw [← Word.add_one_eq_ofNat] at happ
    obtain ⟨q, hq, hpos, hvalue, hvnull⟩ := exec_getca_of_appends happ hn hb hin hbytes
    rw [if_neg hne, BitVec.add_sub_cancel] at hvalue
    exact ⟨q, hq, hpos, fun _ => ⟨hvnull.trans (decide_eq_false hne), hvalue⟩, nofun⟩
  · obtain ⟨q, hq, hpos, -, hvnull⟩ := exec_getca_of_appends (u := 0) (hputcan.appends ht hdone) hn hb hin hbytes
    exact ⟨q, hq, hpos, nofun, fun _ => hvnull⟩

end Sys2Proof.Machine
end

section
/-! PROOF. Errors and their return (60_exceptions.md): CTRL.CLR and CTRL.SRST (R256, R271), and a closed channel stays
closed until a reset (R257). -/
namespace Sys2Proof.Machine

/-! ### CTRL -/

/-- CTRL with SRST = 0 and CLR = 0 writes IE only (R33). -/
theorem State.writeCtrl_ieOnly {v : Word} (h0 : v.getLsbD 0 = false) (h1 : v.getLsbD 1 = false) (s : State) :
    s.writeCtrl v = { s with ie := v.getLsbD 2 } := by
  simp only [State.writeCtrl, h0, h1, Bool.false_eq_true, if_false]

/-- CTRL with SRST = 0 and CLR = 1 clears the result and writes IE (R256). -/
theorem State.writeCtrl_clr {v : Word} (h0 : v.getLsbD 0 = false) (h1 : v.getLsbD 1 = true) (s : State) :
    s.writeCtrl v = { s.clearResult with ie := v.getLsbD 2 } := by
  simp only [State.writeCtrl, h0, h1, Bool.false_eq_true, if_false, if_true]

/-- A 4-byte host write to CTRL, BUSY or not. -/
theorem runTurn_write_ctrl (v : Word) (s : State) :
    runTurn (.host (.write 0x008 .four v)) s = .next ((s.respond .okWrite).writeCtrl v) := by
  rw [runTurn_write_reg .ctrl rfl, writeReg_ctrl]

/-- Settles O46: one case of `State.writeCtrl` for each clause; SRST leaves what the RESET step leaves. -/
theorem ctrlWrite : Obligations.CtrlWrite := by
  intro s v t
  have hwrite : runTurn (.host (.write 0x008 .four v)) s = .next (t.writeCtrl v) := runTurn_write_ctrl v s
  rw [hwrite]
  refine ⟨fun h0 h1 => ?_, fun h0 h1 => ?_, fun h0 => ?_⟩
  · rw [State.writeCtrl_ieOnly h0 h1]
  · rw [State.writeCtrl_clr h0 h1]
    rfl
  · rw [State.writeCtrl_srst h0]
    exact ⟨_, rfl, rfl, t.resetBlock_ie, t.resetBlock.ctrlWord_eq⟩

/-! ### Closed channels -/

/-- Each channel that is closed in `s` is closed in `t` (R39, R40). -/
structure KeepsClosed (s t : State) : Prop where
  rx : s.status.rxClosed = true → t.status.rxClosed = true
  tx : s.status.txClosed = true → t.status.txClosed = true

theorem KeepsClosed.of_channels {s t : State} (hrx : t.status.rxClosed = s.status.rxClosed)
    (htx : t.status.txClosed = s.status.txClosed) : KeepsClosed s t := ⟨hrx.trans, htx.trans⟩

theorem KeepsClosed.of_status {s t : State} (h : t.status = s.status) : KeepsClosed s t :=
  .of_channels (h ▸ rfl) (h ▸ rfl)

theorem KeepsClosed.refl (s : State) : KeepsClosed s s := ⟨id, id⟩

/-- An ENGINE error closes a channel and opens none. -/
theorem KeepsClosed.failRx {s t : State} (h : KeepsClosed s t) (e : ErrCode) : KeepsClosed s (t.failRx e) :=
  ⟨fun _ => rfl, h.tx⟩

theorem KeepsClosed.failTx {s t : State} (h : KeepsClosed s t) : KeepsClosed s t.failTx := ⟨h.rx, fun _ => rfl⟩

theorem issue_keepsClosed {w : Word} {s t : State} (h : issue w s = .next t) : KeepsClosed s t := by
  rcases issue_effect h with ⟨_, _, he⟩ | ⟨_, rfl⟩
  · obtain ⟨_, hrx, htx⟩ := he.ie_channels
    exact .of_channels hrx htx
  · exact .of_channels rfl rfl

theorem decodeStep_keepsClosed {e : RxEvent} {s t : State} (h : decodeStep e s = .next t) : KeepsClosed s t := by
  cases e with
  | eos | err => cases h; exact (KeepsClosed.refl s).failRx _
  | byte b =>
    have htook : KeepsClosed s (s.took b) := .of_status (s.took_status b)
    have hbody : KeepsClosed s (s.tookBody b) := { htook with }
    obtain ⟨_, ⟨e, _, rfl⟩ | ⟨_, rfl⟩⟩ | ⟨_, _, rfl⟩ | ⟨_, _, rfl⟩ := decodeByte_cases h
    · exact htook.failRx e
    · exact htook
    · split_ifs <;> exact { htook with }
    · split_ifs <;> exact { hbody with }

theorem encodeStep_keepsClosed {a : TxAnswer} {s t : State} (h : encodeStep a s = .next t) : KeepsClosed s t := by
  rcases encodeStep_cases h with ⟨_, rfl⟩ | ⟨_, rfl⟩
  · exact (KeepsClosed.refl s).failTx
  · split_ifs <;> exact .of_channels rfl rfl

theorem engineTurn_keepsClosed {s t : State} (h : engineTurn s = .next t) : KeepsClosed s t := by
  rcases engineTurn_cases h with ⟨rfl, _⟩ | ⟨_, _, _, _, hd⟩ | ⟨_, _, _, he⟩
  · exact .refl _
  · exact { decodeStep_keepsClosed hd with }
  · exact { encodeStep_keepsClosed he with }

/-- Of the host's writes only one to CTRL with SRST reopens a channel; CLR does not (R256). -/
theorem WriteEffect.keepsClosed {addr : Addr} {n : Width} {v : Word} {s t : State} (h : WriteEffect addr n v s t) :
    KeepsClosed s t ∨ (n = .four ∧ addr = 0x008 ∧ v.getLsbD 0 = true) := by
  cases h with
  | ctrl hn ha =>
    by_cases h0 : v.getLsbD 0 = true
    · exact .inr ⟨hn, ha, h0⟩
    · refine .inl (.of_channels ?_ ?_) <;> rw [State.writeCtrl_status, if_neg h0] <;> split_ifs <;> rfl
  | issues _ _ _ _ hi => exact .inl { issue_keepsClosed hi with }
  | _ => exact .inl (.of_channels rfl rfl)

theorem TurnEffect.keepsClosed {u : Turn} {s t : State} (h : TurnEffect s u t) : KeepsClosed s t ∨ ResetsBlock u := by
  cases h with
  | writes addr n v _ hw =>
    rcases hw.keepsClosed with hk | ⟨rfl, rfl, h0⟩
    · exact .inl hk
    · exact .inr (.inr ⟨v, rfl, h0⟩)
  | engine _ he => exact .inl (engineTurn_keepsClosed he)
  | rxsrc e => exact .inl (.of_status (s.rxArrive_status e))
  | attach => exact .inl (.of_status s.attachStreams_status)
  | reset => exact .inr (.inl rfl)
  | _ => exact .inl (.of_channels rfl rfl)

/-- Settles O53: a turn keeps the closed channels closed, or it resets the block. -/
theorem channelsReopenOnlyAtReset : Obligations.ChannelsReopenOnlyAtReset := by
  intro s t h
  obtain ⟨a, d, _, ht⟩ := step_effect h
  rcases ht.keepsClosed with hk | hreset
  · exact ⟨fun hs hopen => absurd (hk.rx hs) (hopen ▸ Bool.false_ne_true),
      fun hs hopen => absurd (hk.tx hs) (hopen ▸ Bool.false_ne_true)⟩
  · exact ⟨fun _ _ => hreset, fun _ _ => hreset⟩

end Sys2Proof.Machine
end

section
/-! PROOF. Quiescence (70_reset_and_hazards.md R276): while BUSY = 0 the block changes only by host steps or reset. -/
namespace Sys2Proof.Machine

/-! ### The steps of the environment -/

/-- RXSRC's step has no part in the block (R21, R23). -/
theorem State.rxArrive_sameBlock (e : RxEvent) (s : State) : SameBlock s (s.rxArrive e) := by
  unfold State.rxArrive
  split_ifs <;> rfl

/-- Attaching new streams has no part in the block (R23, R272). -/
theorem State.attachStreams_sameBlock (s : State) : SameBlock s s.attachStreams := by
  unfold State.attachStreams
  split_ifs <;> rfl

/-! ### The steps of a quiescent block -/

/-- The ENGINE has no step while the block is quiescent. -/
theorem engineTurn_quiescent {s t : State} (hq : s.quiescent) (h : engineTurn s = .next t) : t = s := by
  rw [engineTurn_idle ((State.busy_eq_false s).1 hq)] at h
  cases h
  rfl

theorem TurnEffect.sameBlock_of_quiescent {u : Turn} {s t : State} (h : TurnEffect s u t) (hq : s.quiescent)
    (hhost : ∀ a, u ≠ .host a) (hreset : u ≠ .reset) : SameBlock s t := by
  cases h with
  | reads | writes => exact absurd rfl (hhost _)
  | engine _ he => rw [engineTurn_quiescent hq he]; rfl
  | rxsrc e => exact s.rxArrive_sameBlock e
  | txsink => rfl
  | attach => exact s.attachStreams_sameBlock
  | reset => exact absurd rfl hreset

/-- Settles O58: the ENGINE is idle, and every other turn left is a step of the environment. -/
theorem quiescentUntilHostOrReset : Obligations.QuiescentUntilHostOrReset := by
  intro s t hq h hhost hreset
  obtain ⟨_, _, _, ht⟩ := step_effect h
  exact ht.sameBlock_of_quiescent hq hhost hreset

end Sys2Proof.Machine
end
